-- ==== Sys2Proof/Word.lean ====
section
/-! DEFINITION. The one word of the block: the byte (00_scope.md R8, 20_memory.md R31). Every access, every marker,
every escape code and the checksum are 8 bits wide and unsigned. -/

namespace Sys2Proof

/-- An unsigned 8-bit value, bit 7 the most significant (R8). -/
abbrev Byte := BitVec 8

end Sys2Proof
end

