-- ==== Sys2Proof/Config.lean ====
section
/-! DEFINITION. What an implementation fixes at build time: the two open sizes of 00_scope.md R6 and R7 and the choice
between the two framer levels of 44_commands.md R149. DESIGN CHOICE (assumption 1): the values stand in
`State.params`, written by no instruction, so that a statement about every state holds for every build. -/

namespace Sys2Proof

/-- A bound of R6 and R7: a natural number at least 1, or the symbol `unbounded`. -/
inductive Limit where
  | unbounded
  | atMost (n : Nat)
  deriving DecidableEq, Repr

/-- The legal values of a bound: "a natural number at least 1, or the symbol `unbounded`" (R6, R7). -/
def Limit.legal : Limit → Bool
  | .unbounded => true
  | .atMost n => decide (1 ≤ n)

/-- `n` does not exceed the bound. -/
def Limit.allows : Limit → Nat → Bool
  | .unbounded, _ => true
  | .atMost m, n => decide (n ≤ m)

/-- How CMD.TX.FRAME and CMD.TX.ENCODE deliver a frame (R149): whole, at the function level, or one byte per `tx_step`
in the byte-serial reference of 41_framer.md R111 to R113. -/
inductive FramerLevel where
  | function
  | byteSerial
  deriving DecidableEq, Repr

/-- The build-time parameters of one block. -/
structure Params where
  /-- `BUF_CAPACITY` (R6). -/
  bufCapacity : Limit
  /-- `ERRCNT_MAX` (R7). -/
  errcntMax : Limit
  /-- Which level of R149 is built (D11). -/
  framer : FramerLevel
  deriving DecidableEq, Repr

/-- The parameters have legal values (R6, R7). -/
def Params.legal (p : Params) : Bool := p.bufCapacity.legal && p.errcntMax.legal

/-- The defaults: both sizes `unbounded` (R6, R7); the framer as the function the source gives (assumption 12). -/
def Params.default : Params :=
  { bufCapacity := .unbounded, errcntMax := .unbounded, framer := .function }

end Sys2Proof
end

