-- ==== Sys2Proof/Syntax.lean ====
section
/-! DEFINITION. The instructions: one constructor per row of spec/opcode_table.json (30_encoding.md R54, R60), and the
ports at which the host presents them. -/

namespace Sys2Proof

/-- `rx_state`, the context in which a received byte is decoded (10_state.md R11). -/
inductive DecoderState where
  | idle
  | inPacket
  | inPacketEscaped
  deriving DecidableEq, Repr

/-- One constructor per row of the opcode table. An "any other" row carries its byte, which is at once opcode and
operand (R60); the exact rows carry none. -/
inductive Instr where
  /-- RX.IDLE.START (R71). -/
  | rxIdleStart
  /-- RX.IDLE.END (R72). -/
  | rxIdleEnd
  /-- RX.IDLE.ESC (R73). -/
  | rxIdleEsc
  /-- RX.IDLE.OTHER (R74). -/
  | rxIdleOther (b : Byte)
  /-- RX.PKT.START (R75). -/
  | rxPktStart
  /-- RX.PKT.END (R76 to R79). -/
  | rxPktEnd
  /-- RX.PKT.ESC (R80). -/
  | rxPktEsc
  /-- RX.PKT.DATA (R81). -/
  | rxPktData (b : Byte)
  /-- RX.ESC.55 (R83). -/
  | rxEsc55
  /-- RX.ESC.44 (R84). -/
  | rxEsc44
  /-- RX.ESC.33 (R85). -/
  | rxEsc33
  /-- RX.ESC.INVALID (R86, R89). -/
  | rxEscInvalid (b : Byte)
  /-- TX.ESC.AA (R101). -/
  | txEscAA
  /-- TX.ESC.BB (R102). -/
  | txEscBB
  /-- TX.ESC.CC (R103). -/
  | txEscCC
  /-- TX.LIT (R104). -/
  | txLit (x : Byte)
  /-- TX.START (R108). -/
  | txStart
  /-- TX.END (R109). -/
  | txEnd
  /-- CMD.RESET (R146, R190). -/
  | cmdReset
  /-- CMD.RX.STEP (R147). -/
  | cmdRxStep (b : Byte)
  /-- CMD.RX.FEED (R148). -/
  | cmdRxFeed (s : List Byte)
  /-- CMD.TX.FRAME (R149). -/
  | cmdTxFrame (p : List Byte) (c : Byte)
  /-- CMD.TX.ENCODE (R150). -/
  | cmdTxEncode (p : List Byte)
  /-- CMD.RD.ERRCNT (R151). -/
  | cmdRdErrcnt
  /-- CMD.RD.STATUS (R152). -/
  | cmdRdStatus
  /-- CMD.CSUM (R153). -/
  | cmdCsum (s : List Byte)
  /-- CMD.UNESCAPE (R154). -/
  | cmdUnescape (b : Byte)
  /-- CMD.REFRAME (R155). -/
  | cmdReframe (s : List Byte)
  deriving DecidableEq, Repr

/-- The encoding formats of R60. -/
inductive Format where
  | rx1
  | rx2
  | tx1
  | tx0
  | cmd
  deriving DecidableEq, Repr

/-- Where the host presents something (20_memory.md R30; 44_commands.md): a received byte on RXS, a source byte on SRC,
one of the two frame positions that select a TX0 row (R63), or a command's own port (R63, D1). -/
inductive Port where
  | rxs
  | src
  | frameStart
  | frameEnd
  | reset
  | rxStep
  | rxFeed
  | txFrame
  | txEncode
  | rdErrcnt
  | rdStatus
  | csum
  | unescape
  | reframe
  deriving DecidableEq, Repr

/-- One presentation at a port, with its operand bytes in order. The payload and checksum byte of CMD.TX.FRAME are laid
out in that order, the checksum byte last (R32); DESIGN CHOICE, assumption 15. -/
structure Transaction where
  port : Port
  data : List Byte
  deriving DecidableEq, Repr

end Sys2Proof
end

