-- ==== Sys2Proof/WellFormed.lean ====
section
/-! DEFINITION. Which terms of `Instr` stand for rows of the opcode table: an "any other" row never carries a value that
an exact row of its context takes (`fields.excludes`, 30_encoding.md R63). -/

namespace Sys2Proof

/-- The byte is none of the three markers AA, BB, CC (R50): the excludes list of RX.IDLE.OTHER, RX.PKT.DATA, TX.LIT. -/
def notMarker (b : Byte) : Bool :=
  decide (b ≠ 0xAA#8) && decide (b ≠ 0xBB#8) && decide (b ≠ 0xCC#8)

/-- The byte is none of the three escape codes 55, 44, 33: the excludes list of RX.ESC.INVALID. -/
def notEscapeCode (b : Byte) : Bool :=
  decide (b ≠ 0x55#8) && decide (b ≠ 0x44#8) && decide (b ≠ 0x33#8)

/-- The instruction is one the opcode table has (R63). -/
def Instr.wellFormed : Instr → Bool
  | .rxIdleStart => true
  | .rxIdleEnd => true
  | .rxIdleEsc => true
  | .rxIdleOther b => notMarker b
  | .rxPktStart => true
  | .rxPktEnd => true
  | .rxPktEsc => true
  | .rxPktData b => notMarker b
  | .rxEsc55 => true
  | .rxEsc44 => true
  | .rxEsc33 => true
  | .rxEscInvalid b => notEscapeCode b
  | .txEscAA => true
  | .txEscBB => true
  | .txEscCC => true
  | .txLit x => notMarker x
  | .txStart => true
  | .txEnd => true
  | .cmdReset => true
  | .cmdRxStep _ => true
  | .cmdRxFeed _ => true
  | .cmdTxFrame _ _ => true
  | .cmdTxEncode _ => true
  | .cmdRdErrcnt => true
  | .cmdRdStatus => true
  | .cmdCsum _ => true
  | .cmdUnescape _ => true
  | .cmdReframe _ => true

end Sys2Proof
end

