-- ==== Sys2Proof/Decode.lean ====
section
/-! DEFINITION. The wire constants (30_encoding.md R50, R52, R53), the decoder (R54), the byte-coded rows of the opcode
table as data (R63), and after them the encoder. -/

namespace Sys2Proof

/-- START = 0xAA (R50). -/
abbrev startMarker : Byte := 0xAA#8
/-- ESC = 0xBB (R50). -/
abbrev escMarker : Byte := 0xBB#8
/-- END = 0xCC (R50). -/
abbrev endMarker : Byte := 0xCC#8
/-- The escape code that stands for START (R52). -/
abbrev codeOfStart : Byte := 0x55#8
/-- The escape code that stands for ESC (R52). -/
abbrev codeOfEsc : Byte := 0x44#8
/-- The escape code that stands for END (R52). -/
abbrev codeOfEnd : Byte := 0x33#8

/-- Why a presentation at a port is no instruction. -/
inductive DecodeError where
  /-- The port's instruction has an operand that was not presented. -/
  | missingOperand (p : Port)
  /-- More bytes were presented than the port's instruction has. -/
  | extraOperand (p : Port)
  deriving DecidableEq, Repr

/-- The deframer's opcode map: first by `rx_state`, then by the value of the byte (R54, R70). -/
def classifyRx (ctx : DecoderState) (b : Byte) : Instr :=
  match ctx with
  | .idle =>
    if b = startMarker then .rxIdleStart
    else if b = endMarker then .rxIdleEnd
    else if b = escMarker then .rxIdleEsc
    else .rxIdleOther b
  | .inPacket =>
    if b = startMarker then .rxPktStart
    else if b = endMarker then .rxPktEnd
    else if b = escMarker then .rxPktEsc
    else .rxPktData b
  | .inPacketEscaped =>
    if b = codeOfStart then .rxEsc55
    else if b = codeOfEsc then .rxEsc44
    else if b = codeOfEnd then .rxEsc33
    else .rxEscInvalid b

/-- The framer's per-byte map, keyed by the value of the source byte (R54, second table). -/
def classifyTx (x : Byte) : Instr :=
  if x = startMarker then .txEscAA
  else if x = escMarker then .txEscBB
  else if x = endMarker then .txEscCC
  else .txLit x

/-- A port whose instruction has no operand. -/
def noOperand (p : Port) (i : Instr) : List Byte → Except DecodeError Instr
  | [] => .ok i
  | _ :: _ => .error (.extraOperand p)

/-- A port whose instruction has one byte. -/
def oneByte (p : Port) (k : Byte → Instr) : List Byte → Except DecodeError Instr
  | [] => .error (.missingOperand p)
  | [b] => .ok (k b)
  | _ :: _ :: _ => .error (.extraOperand p)

/-- Operands `(p, c)` of CMD.TX.FRAME: the last byte is the checksum byte, the others the payload. -/
def payloadAndChecksum (p : Port) (k : List Byte → Byte → Instr) (data : List Byte) : Except DecodeError Instr :=
  match data.getLast? with
  | none => .error (.missingOperand p)
  | some c => .ok (k data.dropLast c)

/-- The decoder. A received byte is read in the context `ctx` of `rx_state`, a source byte in context TX, and a command by
the port it is presented at (R54, R63). -/
def decode (ctx : DecoderState) (t : Transaction) : Except DecodeError Instr :=
  match t.port with
  | .rxs => oneByte .rxs (classifyRx ctx) t.data
  | .src => oneByte .src classifyTx t.data
  | .frameStart => noOperand .frameStart .txStart t.data
  | .frameEnd => noOperand .frameEnd .txEnd t.data
  | .reset => noOperand .reset .cmdReset t.data
  | .rxStep => oneByte .rxStep .cmdRxStep t.data
  | .rxFeed => .ok (.cmdRxFeed t.data)
  | .txFrame => payloadAndChecksum .txFrame .cmdTxFrame t.data
  | .txEncode => .ok (.cmdTxEncode t.data)
  | .rdErrcnt => noOperand .rdErrcnt .cmdRdErrcnt t.data
  | .rdStatus => noOperand .rdStatus .cmdRdStatus t.data
  | .csum => .ok (.cmdCsum t.data)
  | .unescape => oneByte .unescape .cmdUnescape t.data
  | .reframe => .ok (.cmdReframe t.data)

/-! The encoder, from the same tables. -/

/-- The instruction as the host presents it. -/
def encode : Instr → Transaction
  | .rxIdleStart => { port := .rxs, data := [0xAA#8] }
  | .rxIdleEnd => { port := .rxs, data := [0xCC#8] }
  | .rxIdleEsc => { port := .rxs, data := [0xBB#8] }
  | .rxIdleOther b => { port := .rxs, data := [b] }
  | .rxPktStart => { port := .rxs, data := [0xAA#8] }
  | .rxPktEnd => { port := .rxs, data := [0xCC#8] }
  | .rxPktEsc => { port := .rxs, data := [0xBB#8] }
  | .rxPktData b => { port := .rxs, data := [b] }
  | .rxEsc55 => { port := .rxs, data := [0x55#8] }
  | .rxEsc44 => { port := .rxs, data := [0x44#8] }
  | .rxEsc33 => { port := .rxs, data := [0x33#8] }
  | .rxEscInvalid b => { port := .rxs, data := [b] }
  | .txEscAA => { port := .src, data := [0xAA#8] }
  | .txEscBB => { port := .src, data := [0xBB#8] }
  | .txEscCC => { port := .src, data := [0xCC#8] }
  | .txLit x => { port := .src, data := [x] }
  | .txStart => { port := .frameStart, data := [] }
  | .txEnd => { port := .frameEnd, data := [] }
  | .cmdReset => { port := .reset, data := [] }
  | .cmdRxStep b => { port := .rxStep, data := [b] }
  | .cmdRxFeed s => { port := .rxFeed, data := s }
  | .cmdTxFrame p c => { port := .txFrame, data := p ++ [c] }
  | .cmdTxEncode p => { port := .txEncode, data := p }
  | .cmdRdErrcnt => { port := .rdErrcnt, data := [] }
  | .cmdRdStatus => { port := .rdStatus, data := [] }
  | .cmdCsum s => { port := .csum, data := s }
  | .cmdUnescape b => { port := .unescape, data := [b] }
  | .cmdReframe s => { port := .reframe, data := s }

/-- The context an RX row needs (`fields.context` of the opcode table); the other rows need none. -/
def Instr.context : Instr → Option DecoderState
  | .rxIdleStart => some .idle
  | .rxIdleEnd => some .idle
  | .rxIdleEsc => some .idle
  | .rxIdleOther _ => some .idle
  | .rxPktStart => some .inPacket
  | .rxPktEnd => some .inPacket
  | .rxPktEsc => some .inPacket
  | .rxPktData _ => some .inPacket
  | .rxEsc55 => some .inPacketEscaped
  | .rxEsc44 => some .inPacketEscaped
  | .rxEsc33 => some .inPacketEscaped
  | .rxEscInvalid _ => some .inPacketEscaped
  | .txEscAA => none
  | .txEscBB => none
  | .txEscCC => none
  | .txLit _ => none
  | .txStart => none
  | .txEnd => none
  | .cmdReset => none
  | .cmdRxStep _ => none
  | .cmdRxFeed _ => none
  | .cmdTxFrame _ _ => none
  | .cmdTxEncode _ => none
  | .cmdRdErrcnt => none
  | .cmdRdStatus => none
  | .cmdCsum _ => none
  | .cmdUnescape _ => none
  | .cmdReframe _ => none

/-- The format column of the opcode table (R60). -/
def Instr.format : Instr → Format
  | .rxIdleStart => .rx1
  | .rxIdleEnd => .rx1
  | .rxIdleEsc => .rx1
  | .rxIdleOther _ => .rx1
  | .rxPktStart => .rx1
  | .rxPktEnd => .rx1
  | .rxPktEsc => .rx1
  | .rxPktData _ => .rx1
  | .rxEsc55 => .rx2
  | .rxEsc44 => .rx2
  | .rxEsc33 => .rx2
  | .rxEscInvalid _ => .rx2
  | .txEscAA => .tx1
  | .txEscBB => .tx1
  | .txEscCC => .tx1
  | .txLit _ => .tx1
  | .txStart => .tx0
  | .txEnd => .tx0
  | .cmdReset => .cmd
  | .cmdRxStep _ => .cmd
  | .cmdRxFeed _ => .cmd
  | .cmdTxFrame _ _ => .cmd
  | .cmdTxEncode _ => .cmd
  | .cmdRdErrcnt => .cmd
  | .cmdRdStatus => .cmd
  | .cmdCsum _ => .cmd
  | .cmdUnescape _ => .cmd
  | .cmdReframe _ => .cmd

/-- A presentation's context suits the instruction: an RX row needs its own, the others take any. -/
def Instr.fitsContext (i : Instr) (ctx : DecoderState) : Prop :=
  i.context = none ∨ i.context = some ctx

/-! The byte-coded rows of opcode_table.json as data, with the reading rule of R63. -/

/-- One byte-coded row: `context` is none for the TX rows. -/
structure TableRow where
  context : Option DecoderState
  matchBits : Byte
  maskBits : Byte
  priority : Nat
  instr : Byte → Instr

/-- The RX1 and RX2 rows, in the table's order. -/
def rxRows : List TableRow :=
  [ ⟨some .idle, 0xAA#8, 0xFF#8, 0, fun _ => .rxIdleStart⟩,
    ⟨some .idle, 0xCC#8, 0xFF#8, 0, fun _ => .rxIdleEnd⟩,
    ⟨some .idle, 0xBB#8, 0xFF#8, 0, fun _ => .rxIdleEsc⟩,
    ⟨some .idle, 0x00#8, 0x00#8, 1, .rxIdleOther⟩,
    ⟨some .inPacket, 0xAA#8, 0xFF#8, 0, fun _ => .rxPktStart⟩,
    ⟨some .inPacket, 0xCC#8, 0xFF#8, 0, fun _ => .rxPktEnd⟩,
    ⟨some .inPacket, 0xBB#8, 0xFF#8, 0, fun _ => .rxPktEsc⟩,
    ⟨some .inPacket, 0x00#8, 0x00#8, 1, .rxPktData⟩,
    ⟨some .inPacketEscaped, 0x55#8, 0xFF#8, 0, fun _ => .rxEsc55⟩,
    ⟨some .inPacketEscaped, 0x44#8, 0xFF#8, 0, fun _ => .rxEsc44⟩,
    ⟨some .inPacketEscaped, 0x33#8, 0xFF#8, 0, fun _ => .rxEsc33⟩,
    ⟨some .inPacketEscaped, 0x00#8, 0x00#8, 1, .rxEscInvalid⟩ ]

/-- The TX1 rows, in the table's order. -/
def txRows : List TableRow :=
  [ ⟨none, 0xAA#8, 0xFF#8, 0, fun _ => .txEscAA⟩,
    ⟨none, 0xBB#8, 0xFF#8, 0, fun _ => .txEscBB⟩,
    ⟨none, 0xCC#8, 0xFF#8, 0, fun _ => .txEscCC⟩,
    ⟨none, 0x00#8, 0x00#8, 1, .txLit⟩ ]

/-- "the row applies when `(b AND mask) = match`" (R63). -/
def TableRow.applies (r : TableRow) (b : Byte) : Bool :=
  decide (b &&& r.maskBits = r.matchBits)

/-- The rows that apply to a byte, those of priority 0 first, in the table's order (R63). -/
def applicable (rows : List TableRow) (b : Byte) : List TableRow :=
  rows.filter (fun r => r.applies b && decide (r.priority = 0)) ++
    rows.filter (fun r => r.applies b && decide (r.priority = 1))

/-- R63's search of the table within one context (none: TX). -/
def lookupRow (ctx : Option DecoderState) (b : Byte) : Option Instr :=
  (applicable ((rxRows ++ txRows).filter fun r => decide (r.context = ctx)) b).head?.map fun r => r.instr b

/-! The host's word interface. A word of the table carries no context, so it is read in the context of the first row of
the table whose pattern it has (DESIGN CHOICE, assumption 3). -/

/-- The bytes of a word, the first at the lowest bits; the table's words are single bytes. -/
def wordBytes (nbits w : Nat) : List Byte :=
  (List.range (nbits / 8)).map fun k => BitVec.ofNat 8 (w >>> (8 * k))

/-- The context of the first table row, by R63's priorities, whose pattern the byte has. -/
def tableContext (b : Byte) : DecoderState :=
  match (applicable rxRows b).head? with
  | some r => r.context.getD .idle
  | none => .idle

/-- The context for a presentation of received bytes that carries none of its own. -/
def wordContext (nbits w : Nat) : DecoderState :=
  match wordBytes nbits w with
  | [b] => tableContext b
  | _ => .idle

/-- The word laid out as the host presents it: on RXS. -/
def wordTransaction (nbits w : Nat) : Transaction :=
  { port := .rxs, data := wordBytes nbits w }

/-- The instruction the decoder reads from a word of the opcode table. -/
def decodeTableWord (nbits w : Nat) : Option Instr :=
  match decode (wordContext nbits w) (wordTransaction nbits w) with
  | .ok i => some i
  | .error _ => none

end Sys2Proof
end

