-- ==== Sys2Proof/Machine/State.lean ====
section
/-! DEFINITION. The state of the block as plain data (10_state.md), the ways a step can stop, and the state after reset
(10_state.md R26). -/

namespace Sys2Proof.Machine

/-- The accumulator buffer BUF (20_memory.md R30): the byte at index `i` is the `i`-th of the list, and an index at or
above the length holds no value (10_state.md R13). Equal memories are equal lists; assumption 6. -/
abbrev Memory := List Byte

/-- The canonical form of the buffer: it fits its capacity (R13, R29 (I-c)). -/
def Memory.wf (cap : Limit) (m : Memory) : Bool := cap.allows m.length

/-- `tx_state` of the byte-serial framer (R21). -/
inductive TxState where
  | txIdle
  | txStart
  | txBody
  | txEsc2
  | txEnd
  deriving DecidableEq, Repr

/-- The event output of one deframer step (10_state.md R18, 30_encoding.md R62). -/
inductive Event where
  | none
  | packetComplete (p : List Byte)
  | badChecksum
  | invalidEscape
  | resync
  deriving DecidableEq, Repr

/-- One step's event value with the `diag` bytes beside it (R18). -/
structure Report where
  event : Event
  diag : List Byte
  deriving DecidableEq, Repr

/-- What a command gives the host (44_commands.md). -/
inductive Result where
  /-- No result: CMD.RESET, the RX rows. -/
  | none
  /-- The event and `diag` of each step taken, in order: CMD.RX.STEP (R147), CMD.RX.FEED (R148). -/
  | reports (rs : List Report)
  /-- A byte sequence: CMD.TX.FRAME and CMD.TX.ENCODE at the function level (R149, R150), CMD.REFRAME (R155), and the wire
  bytes of a TX row presented by itself (R101 to R104, R108, R109). -/
  | bytes (bs : List Byte)
  /-- The byte-serial framer took the frame (R111). -/
  | txAccepted
  /-- The byte-serial framer is sending; the command had no effect (R113). -/
  | txBusy
  /-- `rx_errcnt`: CMD.RD.ERRCNT (R151). -/
  | errcnt (n : Nat)
  /-- `rx_state`, `rx_esc`, `rx_len`, `rx_fault`: CMD.RD.STATUS (R152). -/
  | status (rxState : DecoderState) (rxEsc : Bool) (rxLen : Nat) (rxFault : Bool)
  /-- The checksum: CMD.CSUM (R153). -/
  | byte (b : Byte)
  /-- A byte, or `none` for Invalid: CMD.UNESCAPE (R154). -/
  | unescaped (b : Option Byte)
  deriving DecidableEq, Repr

/-- One thing that happens next: the host's presentation at a port, or a `tx_step` of the byte-serial framer (R112). -/
inductive Move where
  | present (t : Transaction)
  | txStep
  deriving DecidableEq, Repr

/-- The state. `rx_esc` and `rx_len` are views of `rxState` and `rxBuf` (assumption 4). -/
structure State where
  /-- `rx_state` (R11). -/
  rxState : DecoderState
  /-- `rx_buf[0 .. rx_len-1]` (R13). -/
  rxBuf : Memory
  /-- `rx_errcnt` (R16). -/
  rxErrcnt : Nat
  /-- `rx_fault` (R17). -/
  rxFault : Bool
  /-- `csum_acc`, scratch of the checksum engine (R20). -/
  csumAcc : Byte
  /-- `tx_state` (R21). -/
  txState : TxState
  /-- `tx_q` (R21). -/
  txQ : List Byte
  /-- `tx_hold` (R21). -/
  txHold : Byte
  /-- The build-time parameters, written by no instruction (assumption 1). -/
  params : Params
  /-- The event output (R18), of the last presentation served (assumption 7). -/
  event : Event
  /-- The `diag` output (R18), of the last presentation served (assumption 7). -/
  diag : List Byte
  /-- The command result (44_commands.md), of the last presentation served (assumption 7). -/
  result : Result
  /-- What the host has presented and the block has not yet served, oldest first (assumption 2). -/
  inputs : List Move
  /-- The record of EVS: the non-None events raised, oldest first (R30, R38; assumption 8). -/
  evs : List Report
  /-- The record of TXS: the bytes emitted, oldest first (R30, R38; assumption 8). -/
  txs : List Byte
  deriving DecidableEq, Repr

/-- How a step can stop for good. -/
inductive Fault where
  /-- `txStep` raises it where R112 takes the head of an empty `tx_q`. By R111 that never happens: the invariant
  `State.Inv` rules it out. Safe (assumption 14). -/
  | txQueueEmpty
  deriving DecidableEq, Repr

/-- Why there is no meaning for what was asked. -/
inductive Refusal where
  /-- `exec` raises it for an instruction that has no meaning yet. Safe. -/
  | notModelled (mnemonic : String)
  /-- An RX row raises it when run with `rx_state` other than its context: the row is not that instruction there
  (R54, R70). No step does this. Safe (assumption 10). -/
  | wrongContext (needed actual : DecoderState)
  /-- `step` raises it when the host presents what is no transaction of the port. Safe (assumption 15). -/
  | malformed (e : DecodeError)
  deriving DecidableEq, Repr

/-- After reset (R26). `csum_acc` and `tx_hold`, unspecified there, are zero (DESIGN CHOICE, assumption 5); the sizes are
the defaults (assumption 1); nothing has been presented and nothing has left the block. -/
def State.reset : State :=
  { rxState := .idle
    rxBuf := []
    rxErrcnt := 0
    rxFault := false
    csumAcc := 0x00#8
    txState := .txIdle
    txQ := []
    txHold := 0x00#8
    params := Params.default
    event := .none
    diag := []
    result := .none
    inputs := []
    evs := []
    txs := [] }

end Sys2Proof.Machine
end

