-- ==== Sys2Proof/Machine/Operands.lean ====
section
/-! DEFINITION. Operand forms: reading and writing the buffer (00_scope.md R9, 20_memory.md R37), splitting a frame's
body (30_encoding.md R57), escaping and unescaping (R53, 41_framer.md R100, R105) and the frames built from them
(R106, R107, R110). -/

namespace Sys2Proof.Machine

/-- `MemRead(addr, n)`, defined only when `addr + n <= rx_len` (R9, R37). -/
def memRead (m : Memory) (addr n : Nat) : Option (List Byte) :=
  if addr + n ≤ m.length then some ((m.drop addr).take n) else none

/-- `MemWrite(addr, n, v)` with `n` the length of `v` (R9, R37). -/
def memWrite (m : Memory) (addr : Nat) (v : List Byte) : Memory :=
  m.take addr ++ v ++ m.drop (addr + v.length)

/-- `payload <- MemRead(0, n-1)` and `rcv <- rx_buf[n-1]` of R76, for a non-empty buffer (R57). -/
def splitBody (m : Memory) : Option (List Byte × Byte) :=
  match memRead m 0 (m.length - 1), memRead m (m.length - 1) 1 with
  | some payload, some [rcv] => some (payload, rcv)
  | _, _ => none

/-- The escape code a marker value is sent as; none for the 253 other values (R52). -/
def escCode (x : Byte) : Option Byte :=
  if x = startMarker then some codeOfStart
  else if x = escMarker then some codeOfEsc
  else if x = endMarker then some codeOfEnd
  else none

/-- `Esc(x)` (R100). -/
def esc (x : Byte) : List Byte :=
  match escCode x with
  | some c => [escMarker, c]
  | none => [x]

/-- `EscSeq(s)` (R105). -/
def escSeq (s : List Byte) : List Byte := s.flatMap esc

/-- `Unescape(b)`; `none` is Invalid (R53). -/
def unescapeByte (b : Byte) : Option Byte :=
  if b = codeOfStart then some startMarker
  else if b = codeOfEsc then some escMarker
  else if b = codeOfEnd then some endMarker
  else none

/-- `Reframe(s)` (R110). -/
def reframe (s : List Byte) : List Byte := [startMarker] ++ escSeq s ++ [endMarker]

/-- `EscapeAndFrame(p, c)` (R106). -/
def escapeAndFrame (p : List Byte) (c : Byte) : List Byte :=
  [startMarker] ++ escSeq (p ++ [c]) ++ [endMarker]

/-- `Checksum(s)`: the sum of the bytes as unsigned integers, modulo 256 (R120). -/
def checksum (s : List Byte) : Byte := BitVec.ofNat 8 (s.map BitVec.toNat).sum

/-- `Encode(p)` (R107). -/
def encodeFrame (p : List Byte) : List Byte := escapeAndFrame p (checksum p)

/-- The number of marker-valued bytes, `m` of R58. -/
def markerCount (s : List Byte) : Nat := s.countP fun x => !notMarker x

end Sys2Proof.Machine
end

