-- ==== Sys2Proof/Machine/Flags.lean ====
section
/-! DEFINITION. Flags and the block's arithmetic: the escape-pending flag (10_state.md R12, R24), the checksum engine
(42_checksum.md R121 to R124), the error counter's saturating increment (R125) and the full test of R82. -/

namespace Sys2Proof.Machine

/-- `rx_esc`: "1 exactly when `rx_state` = `InPacketEscaped` and 0 otherwise" (R12). -/
def State.rxEsc (s : State) : Bool := decide (s.rxState = .inPacketEscaped)

/-- `rx_len` (R13). -/
def State.rxLen (s : State) : Nat := s.rxBuf.length

/-- The numeric codes of `rx_state` where two bits are used (R11, R25). -/
def stateCode : DecoderState → BitVec 2
  | .idle => 0
  | .inPacket => 1
  | .inPacketEscaped => 2

/-- `ev_kind` (R62). -/
def eventKind : Event → Nat
  | .none => 0
  | .packetComplete _ => 1
  | .badChecksum => 2
  | .invalidEscape => 3
  | .resync => 4

/-- `(zext_9(a) + zext_9(b))[7:0]`: the carry out of bit 7 is discarded (R121, R124). -/
def add8 (a b : Byte) : Byte := (a.zeroExtend 9 + b.zeroExtend 9).extractLsb' 0 8

/-- `CSUM.CLR` (R121). -/
def State.csumClr (s : State) : State := { s with csumAcc := 0x00#8 }

/-- `CSUM.ADD(b)` (R121). -/
def State.csumAdd (s : State) (b : Byte) : State := { s with csumAcc := add8 s.csumAcc b }

/-- `CSUM.CLR`, then `CSUM.ADD` on each byte in order; the checksum is then read from `csum_acc` (R121). The
accumulator keeps the sum until the next use (DESIGN CHOICE, assumption 11). -/
def State.runChecksum (s : State) (bs : List Byte) : State := bs.foldl State.csumAdd s.csumClr

/-- `Verify(s)` for a buffer split into payload and received checksum byte: an 8-bit equality (R122). -/
def verify (payload : List Byte) (rcv : Byte) : Bool := decide (checksum payload = rcv)

/-- The test of R123's running form, with `total` the sum of the whole buffer and `last` its last byte. -/
def runningVerify (total last : Byte) : Bool := decide (total - last = last)

/-- `min(n, MAX)` (R125). -/
def saturate : Limit → Nat → Nat
  | .unbounded, n => n
  | .atMost m, n => min n m

/-- `rx_errcnt <- min(rx_errcnt + 1, ERRCNT_MAX)` (R16, R125). -/
def State.countedErrcnt (s : State) : Nat := saturate s.params.errcntMax (s.rxErrcnt + 1)

/-- `rx_len = BUF_CAPACITY` (R82). -/
def State.bufFull (s : State) : Bool :=
  match s.params.bufCapacity with
  | .unbounded => false
  | .atMost n => decide (s.rxLen = n)

end Sys2Proof.Machine
end

