-- ==== Sys2Proof/Machine/Ops.lean ====
section
/-! DEFINITION. The named operations the meanings share: the outputs, the buffer primitives of 00_scope.md R9, taking an
event (60_exceptions.md R167, R170) and the overflow fault (40_deframer.md R82), and serving the host's queue. -/

namespace Sys2Proof.Machine

/-- Every presentation starts with no event, no `diag` and no result (R9: "A step that raises nothing has event output
`None`"; assumption 7). -/
def State.clearOutputs (s : State) : State := { s with event := .none, diag := [], result := .none }

/-- A command's result (44_commands.md). -/
def State.withResult (s : State) (r : Result) : State := { s with result := r }

/-- Bytes emitted on TXS, in order; they cannot be undone (20_memory.md R38). -/
def State.emit (s : State) (bs : List Byte) : State := { s with txs := s.txs ++ bs }

/-- `BufClear()` (R9). -/
def State.bufClear (s : State) : State := { s with rxBuf := [] }

/-- `raise e` with its `diag` bytes (R9, R18): the step's event output, and one more event on EVS (R41 (b)). -/
def State.raiseEvent (s : State) (e : Event) (d : List Byte) : State :=
  { s with event := e, diag := d, evs := s.evs ++ [{ event := e, diag := d }] }

/-- What taking each event changes, in full (R167). There is no return: the deframer takes the next byte in the state
this leaves (R168). -/
def State.takeEvent (s : State) (e : Event) (d : List Byte) : State :=
  match e with
  | .none => s
  | .packetComplete _ => State.raiseEvent { s.bufClear with rxErrcnt := 0, rxState := .idle } e d
  | .badChecksum => State.raiseEvent { s.bufClear with rxErrcnt := s.countedErrcnt, rxState := .idle } e d
  | .invalidEscape => State.raiseEvent { s with rxErrcnt := s.countedErrcnt, rxState := .inPacket } e d
  | .resync => State.raiseEvent { s.bufClear with rxState := .inPacket } e d

/-- `fault BufferOverflow`: "`rx_fault <- 1`; no other register is written; no event is produced by this step" (R82). -/
def State.takeOverflow (s : State) : State := { s with rxFault := true }

/-- `BufAppend(b)`, then `rx_state <- next`; on a full buffer the fault of R82 instead (R9, R81 to R85). -/
def State.appendThen (s : State) (b : Byte) (next : DecoderState) : State :=
  if s.bufFull then s.takeOverflow
  else { s with rxBuf := memWrite s.rxBuf s.rxLen [b], rxState := next }

/-- Reset of the block (R26, R190): every register at its reset value, the outputs empty. The parameters are fixed at
build time (R25), and what has left the block or waits at its ports is no register of it (assumptions 2 and 8). -/
def State.resetBlock (s : State) : State :=
  { State.reset with params := s.params, inputs := s.inputs, evs := s.evs, txs := s.txs }

/-- Serve the host's queue: its oldest move, or the framer's own `tx_step` when nothing is presented (assumption 2). -/
def State.nextMove (s : State) : Move × State :=
  match s.inputs with
  | [] => (.txStep, s)
  | m :: rest => (m, { s with inputs := rest })

/-- The host presents a transaction to be served before everything already waiting. -/
def State.presentFirst (s : State) (t : Transaction) : State := { s with inputs := .present t :: s.inputs }

/-- A word of the opcode table presented to run next, in the context of its row (assumption 3). -/
def State.placeWord (s : State) (nbits w : Nat) : State :=
  State.presentFirst { s with rxState := wordContext nbits w } (wordTransaction nbits w)

end Sys2Proof.Machine
end

