-- ==== Sys2Proof/Machine/Deframer.lean ====
section
/-! DEFINITION. The RX family (40_deframer.md): one rule and one meaning for each row, and `step(b)` (R70) and
`Run(s)` (R87) built from the rules. -/

namespace Sys2Proof.Machine

/-! The rules, each applied in its own context with `rx_fault = 0`. -/

/-- R71. -/
def ruleIdleStart (s : State) : State := { s.bufClear with rxState := .inPacket }

/-- R72: nothing is written. -/
def ruleIdleEnd (s : State) : State := s

/-- R73: nothing is written; no escape becomes pending. -/
def ruleIdleEsc (s : State) : State := s

/-- R74: nothing is written. -/
def ruleIdleOther (_ : Byte) (s : State) : State := s

/-- R75: the resynchronisation; `diag` is the buffer before it is cleared. -/
def rulePktStart (s : State) : State := s.takeEvent .resync s.rxBuf

/-- R76, with its sub-rules R77 (match), R78 (mismatch) and R79 (empty buffer). -/
def rulePktEnd (s : State) : State :=
  match splitBody s.rxBuf with
  | none => s
  | some (payload, rcv) =>
    let s1 := s.runChecksum payload
    if s1.csumAcc = rcv then s1.takeEvent (.packetComplete payload) []
    else s1.takeEvent .badChecksum s.rxBuf

/-- R80: `rx_esc` becomes 1 with `rx_state` (R12); the 0xBB is not appended. -/
def rulePktEsc (s : State) : State := { s with rxState := .inPacketEscaped }

/-- R81. -/
def rulePktData (b : Byte) (s : State) : State := s.appendThen b .inPacket

/-- R83. -/
def ruleEsc55 (s : State) : State := s.appendThen startMarker .inPacket

/-- R84. -/
def ruleEsc44 (s : State) : State := s.appendThen escMarker .inPacket

/-- R85. -/
def ruleEsc33 (s : State) : State := s.appendThen endMarker .inPacket

/-- R86: the byte is dropped, the buffer untouched. -/
def ruleEscInvalid (b : Byte) (s : State) : State := s.takeEvent .invalidEscape [b]

/-- `step(b)` (R70): one rule chosen by `rx_state` and then by the byte; a faulted deframer takes no step (R90). -/
def rxStep (b : Byte) (s : State) : State :=
  if s.rxFault then s
  else
    match s.rxState with
    | .idle =>
      if b = startMarker then ruleIdleStart s
      else if b = endMarker then ruleIdleEnd s
      else if b = escMarker then ruleIdleEsc s
      else ruleIdleOther b s
    | .inPacket =>
      if b = startMarker then rulePktStart s
      else if b = endMarker then rulePktEnd s
      else if b = escMarker then rulePktEsc s
      else rulePktData b s
    | .inPacketEscaped =>
      if b = codeOfStart then ruleEsc55 s
      else if b = codeOfEsc then ruleEsc44 s
      else if b = codeOfEnd then ruleEsc33 s
      else ruleEscInvalid b s

/-- The event output is that step's alone (R18), so each step of a run starts with none. -/
def State.freshEvent (s : State) : State := { s with event := .none, diag := [] }

/-- `Run(s)` (R87): one step for each byte in order, with the report of each step taken. A run stops at a fault: the
faulting step and the bytes after it give no report (R82, R90; assumption 16). -/
def feed : List Byte → State → State × List Report
  | [], s => (s, [])
  | b :: bs, s =>
    let s1 := rxStep b s.freshEvent
    if s1.rxFault then (s1, [])
    else
      let rest := feed bs s1
      (rest.1, { event := s1.event, diag := s1.diag } :: rest.2)

/-- An RX row runs in its own context. A faulted deframer takes no step (R90; assumption 9), and in another context the
byte is another row (R54; assumption 10). -/
def runRx (ctx : DecoderState) (rule : State → State) (s : State) : Host.Outcome State Fault Refusal :=
  if s.rxFault then .next s.clearOutputs
  else if s.rxState = ctx then .next (rule s.clearOutputs)
  else .refused (.wrongContext ctx s.rxState)

/-! The meanings of the RX rows. -/

/-- RX.IDLE.START (R71). -/
def execRxIdleStart (s : State) : Host.Outcome State Fault Refusal := runRx .idle ruleIdleStart s

/-- RX.IDLE.END (R72). -/
def execRxIdleEnd (s : State) : Host.Outcome State Fault Refusal := runRx .idle ruleIdleEnd s

/-- RX.IDLE.ESC (R73). -/
def execRxIdleEsc (s : State) : Host.Outcome State Fault Refusal := runRx .idle ruleIdleEsc s

/-- RX.IDLE.OTHER (R74). -/
def execRxIdleOther (b : Byte) (s : State) : Host.Outcome State Fault Refusal := runRx .idle (ruleIdleOther b) s

/-- RX.PKT.START (R75). -/
def execRxPktStart (s : State) : Host.Outcome State Fault Refusal := runRx .inPacket rulePktStart s

/-- RX.PKT.END (R76 to R79). -/
def execRxPktEnd (s : State) : Host.Outcome State Fault Refusal := runRx .inPacket rulePktEnd s

/-- RX.PKT.ESC (R80). -/
def execRxPktEsc (s : State) : Host.Outcome State Fault Refusal := runRx .inPacket rulePktEsc s

/-- RX.PKT.DATA (R81, R82). -/
def execRxPktData (b : Byte) (s : State) : Host.Outcome State Fault Refusal := runRx .inPacket (rulePktData b) s

/-- RX.ESC.55 (R83, R82). -/
def execRxEsc55 (s : State) : Host.Outcome State Fault Refusal := runRx .inPacketEscaped ruleEsc55 s

/-- RX.ESC.44 (R84, R82). -/
def execRxEsc44 (s : State) : Host.Outcome State Fault Refusal := runRx .inPacketEscaped ruleEsc44 s

/-- RX.ESC.33 (R85, R82). -/
def execRxEsc33 (s : State) : Host.Outcome State Fault Refusal := runRx .inPacketEscaped ruleEsc33 s

/-- RX.ESC.INVALID (R86, R89). -/
def execRxEscInvalid (b : Byte) (s : State) : Host.Outcome State Fault Refusal :=
  runRx .inPacketEscaped (ruleEscInvalid b) s

end Sys2Proof.Machine
end

