-- ==== Sys2Proof/Machine/Framer.lean ====
section
/-! DEFINITION. The TX family (41_framer.md): the six rows, the start of a frame at either level of 44_commands.md R149,
and the byte-serial `tx_step` (R112). -/

namespace Sys2Proof.Machine

/-- The byte-serial framer is sending a frame (R113); at the function level it never is (R21). -/
def State.framerBusy (s : State) : Bool :=
  decide (s.params.framer = .byteSerial) && decide (s.txState ≠ .txIdle)

/-- A TX row presented by itself: the bytes it emits are its output, and nothing is held (R21: "Pure, stateless
operations"). Onto TXS, which carries frames (20_memory.md R30), its bytes go as part of a frame, by a frame command or by
`tx_step`, so that frames never interleave there (R41 (d)); assumption 13. -/
def runTx (bs : List Byte) (s : State) : Host.Outcome State Fault Refusal :=
  .next (s.clearOutputs.withResult (.bytes bs))

/-- TX.ESC.AA (R101): emit 0xBB, then emit 0x55. -/
def execTxEscAA (s : State) : Host.Outcome State Fault Refusal := runTx [escMarker, codeOfStart] s

/-- TX.ESC.BB (R102): emit 0xBB, then emit 0x44. -/
def execTxEscBB (s : State) : Host.Outcome State Fault Refusal := runTx [escMarker, codeOfEsc] s

/-- TX.ESC.CC (R103): emit 0xBB, then emit 0x33. -/
def execTxEscCC (s : State) : Host.Outcome State Fault Refusal := runTx [escMarker, codeOfEnd] s

/-- TX.LIT (R104): emit `x`. -/
def execTxLit (x : Byte) (s : State) : Host.Outcome State Fault Refusal := runTx [x] s

/-- TX.START (R108): emit 0xAA. -/
def execTxStart (s : State) : Host.Outcome State Fault Refusal := runTx [startMarker] s

/-- TX.END (R109): emit 0xCC. -/
def execTxEnd (s : State) : Host.Outcome State Fault Refusal := runTx [endMarker] s

/-- A frame command the framer can take: at the function level the whole frame is the result and goes out on TXS (R106,
R149; assumption 12); at the byte-serial level `tx_q <- p ++ [c]` and `tx_state <- TxStart` (R111). -/
def State.startFrame (s : State) (p : List Byte) (c : Byte) : State :=
  match s.params.framer with
  | .function => (s.emit (escapeAndFrame p c)).withResult (.bytes (escapeAndFrame p c))
  | .byteSerial => State.withResult { s with txQ := p ++ [c], txState := .txStart } .txAccepted

/-- After a source byte is out: the end marker is next when `tx_q` is empty, else the body goes on (R112). -/
def afterSourceByte (q : List Byte) : TxState :=
  match q with
  | [] => .txEnd
  | _ :: _ => .txBody

/-- `tx_step`, by state (R112). -/
def txStep (s : State) : Host.Outcome State Fault Refusal :=
  match s.txState with
  | .txIdle => .next s
  | .txStart => .next { s.emit [startMarker] with txState := .txBody }
  | .txBody =>
    match s.txQ with
    | [] => .fault .txQueueEmpty
    | x :: q =>
      match escCode x with
      | some c => .next { s.emit [escMarker] with txQ := q, txHold := c, txState := .txEsc2 }
      | none => .next { s.emit [x] with txQ := q, txState := afterSourceByte q }
  | .txEsc2 => .next { s.emit [s.txHold] with txState := afterSourceByte s.txQ }
  | .txEnd => .next { s.emit [endMarker] with txState := .txIdle }

/-- `n` framer steps in a row. -/
def txSteps : Nat → State → Host.Outcome State Fault Refusal
  | 0, s => .next s
  | n + 1, s =>
    match txStep s with
    | .next t => txSteps n t
    | .fault f => .fault f
    | .refused r => .refused r

end Sys2Proof.Machine
end

