-- ==== Sys2Proof/Machine/Commands.lean ====
section
/-! DEFINITION. The CMD family (44_commands.md). Every command is available at all times (60_exceptions.md R175). -/

namespace Sys2Proof.Machine

/-- CMD.RESET (R146, R190). -/
def execCmdReset (s : State) : Host.Outcome State Fault Refusal := .next s.resetBlock

/-- CMD.RX.STEP (R147): one `step`; its event and `diag` are the result. A step that faults, and one that a faulted
deframer does not take, give none (R82, R90). -/
def execCmdRxStep (b : Byte) (s : State) : Host.Outcome State Fault Refusal :=
  let s1 := rxStep b s.clearOutputs
  .next (s1.withResult (.reports (if s1.rxFault then [] else [{ event := s1.event, diag := s1.diag }])))

/-- CMD.RX.FEED (R148): `Run` on the chunk. -/
def execCmdRxFeed (bs : List Byte) (s : State) : Host.Outcome State Fault Refusal :=
  let r := feed bs s.clearOutputs
  .next (r.1.withResult (.reports r.2))

/-- CMD.TX.FRAME (R149, R106, R111); refused with no effect while the byte-serial framer is sending (R113). -/
def execCmdTxFrame (p : List Byte) (c : Byte) (s : State) : Host.Outcome State Fault Refusal :=
  if s.framerBusy then .next (s.clearOutputs.withResult .txBusy) else .next (s.clearOutputs.startFrame p c)

/-- CMD.TX.ENCODE (R150, R107): CMD.TX.FRAME with the checksum the engine computes. -/
def execCmdTxEncode (p : List Byte) (s : State) : Host.Outcome State Fault Refusal :=
  if s.framerBusy then .next (s.clearOutputs.withResult .txBusy)
  else
    let s1 := s.clearOutputs.runChecksum p
    .next (s1.startFrame p s1.csumAcc)

/-- CMD.RD.ERRCNT (R151): reading does not clear. -/
def execCmdRdErrcnt (s : State) : Host.Outcome State Fault Refusal :=
  .next (s.clearOutputs.withResult (.errcnt s.rxErrcnt))

/-- CMD.RD.STATUS (R152). -/
def execCmdRdStatus (s : State) : Host.Outcome State Fault Refusal :=
  .next (s.clearOutputs.withResult (.status s.rxState s.rxEsc s.rxLen s.rxFault))

/-- CMD.CSUM (R153, R121). -/
def execCmdCsum (bs : List Byte) (s : State) : Host.Outcome State Fault Refusal :=
  let s1 := s.clearOutputs.runChecksum bs
  .next (s1.withResult (.byte s1.csumAcc))

/-- CMD.UNESCAPE (R154, R53). -/
def execCmdUnescape (b : Byte) (s : State) : Host.Outcome State Fault Refusal :=
  .next (s.clearOutputs.withResult (.unescaped (unescapeByte b)))

/-- CMD.REFRAME (R155, R110). -/
def execCmdReframe (bs : List Byte) (s : State) : Host.Outcome State Fault Refusal :=
  .next (s.clearOutputs.withResult (.bytes (reframe bs)))

end Sys2Proof.Machine
end

