-- ==== Sys2Proof/Machine/Dispatch.lean ====
section
/-! DEFINITION. One arm per constructor of `Instr`, each one call of that instruction's meaning. -/

namespace Sys2Proof.Machine

def exec (i : Instr) (s : State) : Host.Outcome State Fault Refusal :=
  match i with
  | .rxIdleStart => Sys2Proof.Machine.execRxIdleStart s
  | .rxIdleEnd => Sys2Proof.Machine.execRxIdleEnd s
  | .rxIdleEsc => Sys2Proof.Machine.execRxIdleEsc s
  | .rxIdleOther b => Sys2Proof.Machine.execRxIdleOther b s
  | .rxPktStart => Sys2Proof.Machine.execRxPktStart s
  | .rxPktEnd => Sys2Proof.Machine.execRxPktEnd s
  | .rxPktEsc => Sys2Proof.Machine.execRxPktEsc s
  | .rxPktData b => Sys2Proof.Machine.execRxPktData b s
  | .rxEsc55 => Sys2Proof.Machine.execRxEsc55 s
  | .rxEsc44 => Sys2Proof.Machine.execRxEsc44 s
  | .rxEsc33 => Sys2Proof.Machine.execRxEsc33 s
  | .rxEscInvalid b => Sys2Proof.Machine.execRxEscInvalid b s
  | .txEscAA => Sys2Proof.Machine.execTxEscAA s
  | .txEscBB => Sys2Proof.Machine.execTxEscBB s
  | .txEscCC => Sys2Proof.Machine.execTxEscCC s
  | .txLit x => Sys2Proof.Machine.execTxLit x s
  | .txStart => Sys2Proof.Machine.execTxStart s
  | .txEnd => Sys2Proof.Machine.execTxEnd s
  | .cmdReset => Sys2Proof.Machine.execCmdReset s
  | .cmdRxStep b => Sys2Proof.Machine.execCmdRxStep b s
  | .cmdRxFeed bs => Sys2Proof.Machine.execCmdRxFeed bs s
  | .cmdTxFrame p c => Sys2Proof.Machine.execCmdTxFrame p c s
  | .cmdTxEncode p => Sys2Proof.Machine.execCmdTxEncode p s
  | .cmdRdErrcnt => Sys2Proof.Machine.execCmdRdErrcnt s
  | .cmdRdStatus => Sys2Proof.Machine.execCmdRdStatus s
  | .cmdCsum bs => Sys2Proof.Machine.execCmdCsum bs s
  | .cmdUnescape b => Sys2Proof.Machine.execCmdUnescape b s
  | .cmdReframe bs => Sys2Proof.Machine.execCmdReframe bs s

end Sys2Proof.Machine
end

