-- ==== Sys2Proof/Machine/Step.lean ====
section
/-! DEFINITION. One step of the machine: serve the queue of what the host has presented (assumption 2). -/

namespace Sys2Proof.Machine

/-- The next move is taken from the queue. A presentation is decoded in the context of `rx_state` and its instruction
run; a framer move, and an empty queue, is one `tx_step` (which in TxIdle emits nothing and stays, R112). -/
def step (s : State) : Host.Outcome State Fault Refusal :=
  match s.nextMove with
  | (.txStep, s') => txStep s'
  | (.present t, s') =>
    match decode s'.rxState t with
    | .ok i => exec i s'
    | .error e => .refused (.malformed e)

/-- The word presented to run in the very next step (assumption 3). -/
def State.withFetchWord (s : State) (nbits w : Nat) : State := s.placeWord nbits w

end Sys2Proof.Machine
end

