-- ==== Sys2Proof/Machine/Wire.lean ====
section
/-! DEFINITION. What the spec defines about streams rather than instructions: well-formed frames (30_encoding.md R64),
the pseudo-instructions and the disassembly of a stream (R65), and the host-level names of events (R62,
60_exceptions.md R160, R181). -/

namespace Sys2Proof.Machine

/-- Unescape the bytes between the markers: no bare AA or CC, and every BB immediately followed by an escape code, which
is not itself taken as the start of anything (R64). The flag says that a BB has just been read. -/
def unescapeBody : Bool → List Byte → Option (List Byte)
  | false, [] => some []
  | true, [] => none
  | true, c :: rest =>
    match unescapeByte c with
    | none => none
    | some x => (unescapeBody false rest).map (x :: ·)
  | false, b :: rest =>
    if b = startMarker then none
    else if b = endMarker then none
    else if b = escMarker then unescapeBody true rest
    else (unescapeBody false rest).map (b :: ·)

/-- A well-formed frame by its bytes, the second form of R64. -/
def isFrame (f : List Byte) : Bool :=
  match f with
  | [] => false
  | b :: rest =>
    decide (b = startMarker) && decide (rest.getLast? = some endMarker) &&
      match unescapeBody false rest.dropLast with
      | none => false
      | some body =>
        match splitBody body with
        | none => false
        | some (payload, c) => verify payload c

/-- The pseudo-instructions of R65. -/
inductive Pseudo where
  | start
  | fin
  | escape (c : Byte)
  | lit (x : Byte)
  | raw (x : Byte)
  | body (xs : List Byte)
  | frame (xs : List Byte)
  | framec (c : Byte) (xs : List Byte)
  | noise (xs : List Byte)
  deriving DecidableEq, Repr

/-- The wire bytes a pseudo-instruction stands for (the expansion column of R65). -/
def expand : Pseudo → List Byte
  | .start => [startMarker]
  | .fin => [endMarker]
  | .escape c => [escMarker, c]
  | .lit x => esc x
  | .raw x => [x]
  | .body xs => escSeq xs
  | .frame xs => [startMarker] ++ escSeq xs ++ esc (checksum xs) ++ [endMarker]
  | .framec c xs => [startMarker] ++ escSeq xs ++ esc c ++ [endMarker]
  | .noise xs => xs

/-- The stream a program of pseudo-instructions stands for (R65). -/
def assemble (ps : List Pseudo) : List Byte := ps.flatMap expand

/-- The disassembly of a stream from a start state: the row each byte selects there (R54, R65). DESIGN CHOICE (unsafe;
assumption 21): once `rx_fault` is set, a byte that no rule consumes (R90) is still listed, as the row R54 names for it in
the `rx_state` the fault left. -/
def disassemble : List Byte → State → List Instr
  | [], _ => []
  | b :: bs, s => classifyRx s.rxState b :: disassemble bs (rxStep b s)

/-- The kinds of the host's Diagnostic event (R62). -/
inductive DiagnosticKind where
  | badChecksum
  | invalidEscape
  | desyncDetected
  deriving DecidableEq, Repr

/-- The host-level events (R62, R181). -/
inductive HostEvent where
  | packetReceived (payload : List Byte)
  | diagnostic (kind : DiagnosticKind) (rawFramed : List Byte)
  deriving DecidableEq, Repr

/-- The mapping of R181, the raw bytes re-framed from `diag` (R179, R110; DEDUCED for InvalidEscape, assumption 19). -/
def hostEvent (r : Report) : Option HostEvent :=
  match r.event with
  | .none => none
  | .packetComplete p => some (.packetReceived p)
  | .badChecksum => some (.diagnostic .badChecksum (reframe r.diag))
  | .invalidEscape => some (.diagnostic .invalidEscape (reframe r.diag))
  | .resync => some (.diagnostic .desyncDetected (reframe r.diag))

end Sys2Proof.Machine
end

