-- ==== Sys2Proof/Safety.lean ====
section
/-! DEFINITION. The terms in which claims are made: the invariant of 10_state.md R29 with the framer's own (41_framer.md
R111, R112), what counts as a run that went well (40_deframer.md R90), and the parts of the state each agent owns. -/

namespace Sys2Proof.Machine

/-- R29 (I-b), (I-c), (I-d); (I-a) and (I-e) hold by the types (R12, D18). -/
structure State.RxInv (s : State) : Prop where
  /-- (I-b): in `Idle` the buffer is empty. -/
  idleEmpty : s.rxState = .idle → s.rxBuf = []
  /-- (I-c): the buffer fits its capacity. -/
  fits : Memory.wf s.params.bufCapacity s.rxBuf = true
  /-- (I-d): the counter is within its bound. -/
  counted : s.params.errcntMax.allows s.rxErrcnt = true

/-- What R111 and R112 keep true of the byte-serial framer. -/
structure State.TxInv (s : State) : Prop where
  /-- "`tx_q` is never empty in `TxStart`" (R111), nor in `TxBody`, whose step takes its head (R112). -/
  sourceWaits : s.txState = .txStart ∨ s.txState = .txBody → s.txQ ≠ []
  /-- Nothing is left to send in `TxEnd` and `TxIdle`. -/
  sourceSpent : s.txState = .txEnd ∨ s.txState = .txIdle → s.txQ = []
  /-- In `TxEsc2` the byte held is an escape code. -/
  holdsCode : s.txState = .txEsc2 → notEscapeCode s.txHold = false
  /-- At the function level the framer holds no frame (R21). -/
  functionIdle : s.params.framer = .function → s.txState = .txIdle

/-- The invariant of every reachable state. -/
structure State.Inv (s : State) : Prop where
  legal : s.params.legal = true
  rx : s.RxInv
  tx : s.TxInv

/-- A run that has gone well so far: the deframer is not faulted (R82, R90: "every claim about a run takes
`rx_fault = 0` as a premise"). -/
def State.safe (s : State) : Bool := !s.rxFault

/-- The two states hold the same deframer: R10's registers, and the parameters. -/
structure SameDeframer (s t : State) : Prop where
  rxState : s.rxState = t.rxState
  rxBuf : s.rxBuf = t.rxBuf
  rxErrcnt : s.rxErrcnt = t.rxErrcnt
  rxFault : s.rxFault = t.rxFault
  params : s.params = t.params

/-- The two states hold the same byte-serial framer (R21) and have emitted the same bytes. -/
structure SameFramer (s t : State) : Prop where
  txState : s.txState = t.txState
  txQ : s.txQ = t.txQ
  txHold : s.txHold = t.txHold
  txs : s.txs = t.txs

/-- The next state of an outcome, if it has one. -/
def nextState? : Host.Outcome State Fault Refusal → Option State
  | .next s => some s
  | .fault _ => none
  | .refused _ => none

/-- The events of a run that are not `None`, in order (R87). -/
def raised (rs : List Report) : List Report := rs.filter fun r => decide (r.event ≠ .none)

/-- A `FramingError` of either kind (R142). -/
def Report.isFailure (r : Report) : Bool := decide (r.event = .badChecksum) || decide (r.event = .invalidEscape)

/-- A `PacketComplete`. -/
def Report.isPacket (r : Report) : Bool :=
  match r.event with
  | .packetComplete _ => true
  | .none => false
  | .badChecksum => false
  | .invalidEscape => false
  | .resync => false

/-- "the number of `FramingError` events (of either kind) raised since the most recent `PacketComplete`" (R142). -/
def failuresSinceSuccess (rs : List Report) : Nat :=
  (rs.reverse.takeWhile fun r => !r.isPacket).countP Report.isFailure

/-- The chunks served one after another, each as one CMD.RX.FEED, with all their reports in order (R136). -/
def serveChunks : List (List Byte) → State → Option (State × List Report)
  | [], s => some (s, [])
  | c :: cs, s =>
    match exec (.cmdRxFeed c) s with
    | .next t =>
      match t.result with
      | .reports r => (serveChunks cs t).map fun u => (u.1, r ++ u.2)
      | _ => none
    | _ => none

/-- What the byte-serial framer has still to emit of the frame it is sending (R112). -/
def State.toSend (s : State) : List Byte :=
  match s.txState with
  | .txIdle => []
  | .txStart => [startMarker] ++ escSeq s.txQ ++ [endMarker]
  | .txBody => escSeq s.txQ ++ [endMarker]
  | .txEsc2 => [s.txHold] ++ escSeq s.txQ ++ [endMarker]
  | .txEnd => [endMarker]

/-- The instructions of a list run one after another, each with a byte sequence for its result, and those in order. -/
def outputs : List Instr → State → Option (List Byte)
  | [], _ => some []
  | i :: is, s =>
    match exec i s with
    | .next t =>
      match t.result with
      | .bytes bs => (outputs is t).map fun rest => bs ++ rest
      | _ => none
    | _ => none

/-- The step that raised nothing (R18). -/
abbrev quiet : Report := { event := .none, diag := [] }

end Sys2Proof.Machine
end

