-- ==== Sys2Proof/Certificates/Slice0/Obligations.lean ====
section
/-! DEFINITION. The statements for the provers. `s.clearOutputs` is the state with event output None, `diag` empty and no
result, all else as in `s` (assumption 7): every presentation starts from it. -/

open Sys2Proof Sys2Proof.Machine

/-! Encoding. -/

/-- A few bytes written out from the tables of 30_encoding.md R54 decode to the rows they stand for. The last clause is
not from R54, whose tables give commands no byte encoding (R63): that CMD.TX.FRAME's operands stand as the payload
followed by the checksum byte is the model's choice, assumption 15. -/
def Obligations.ListedBytesDecode : Prop :=
  decode .idle { port := .rxs, data := [0xAA#8] } = .ok .rxIdleStart ∧
  decode .idle { port := .rxs, data := [0x55#8] } = .ok (.rxIdleOther 0x55#8) ∧
  decode .inPacket { port := .rxs, data := [0xAA#8] } = .ok .rxPktStart ∧
  decode .inPacket { port := .rxs, data := [0xCC#8] } = .ok .rxPktEnd ∧
  decode .inPacket { port := .rxs, data := [0x55#8] } = .ok (.rxPktData 0x55#8) ∧
  decode .inPacketEscaped { port := .rxs, data := [0x44#8] } = .ok .rxEsc44 ∧
  decode .inPacketEscaped { port := .rxs, data := [0xAA#8] } = .ok (.rxEscInvalid 0xAA#8) ∧
  decode .idle { port := .src, data := [0xBB#8] } = .ok .txEscBB ∧
  decode .idle { port := .src, data := [0x55#8] } = .ok (.txLit 0x55#8) ∧
  decode .idle { port := .txFrame, data := [0x10#8, 0x20#8, 0x30#8] } = .ok (.cmdTxFrame [0x10#8, 0x20#8] 0x30#8)

/-- R54, R61, R63: in each context every byte value selects exactly one row, by the decoder and by the table's own
reading rule (match and mask, priority 0 first) alike, and it is a row of that context. -/
def Obligations.EveryByteSelectsItsTableRow : Prop :=
  (∀ (ctx : DecoderState) (b : Byte), ∃ i : Instr,
    decode ctx { port := .rxs, data := [b] } = .ok i ∧ lookupRow (some ctx) b = some i ∧
      i.context = some ctx ∧ i.wellFormed = true) ∧
  (∀ (ctx : DecoderState) (x : Byte), ∃ i : Instr,
    decode ctx { port := .src, data := [x] } = .ok i ∧ lookupRow none x = some i ∧
      i.context = none ∧ i.wellFormed = true)

/-- R54, R60: decoding the encoding of a well-formed instruction, in its own context, gives the instruction back with
every operand. -/
def Obligations.DecodeReadsBackEveryEncoding : Prop :=
  ∀ (i : Instr) (ctx : DecoderState), i.wellFormed = true → i.fitsContext ctx → decode ctx (encode i) = .ok i

/-- R54, R61: what decodes is the encoding of what it decodes to, which is a well-formed row of its context. -/
def Obligations.EncodingReadsBackEveryDecode : Prop :=
  ∀ (ctx : DecoderState) (t : Transaction) (i : Instr),
    decode ctx t = .ok i → encode i = t ∧ i.wellFormed = true ∧ i.fitsContext ctx

/-! The step. -/

/-- A step serves the head of the host's queue (assumption 2): a presentation that decodes, in the context of `rx_state`,
to a well-formed instruction runs that instruction on the state without the presentation; a queued framer move, and an
empty queue, is one `tx_step`. -/
def Obligations.StepRunsThePresentedInstruction : Prop :=
  (∀ (s : State) (t : Transaction) (rest : List Move) (i : Instr),
    s.inputs = .present t :: rest → decode s.rxState t = .ok i → i.wellFormed = true →
      step s = exec i { s with inputs := rest }) ∧
  (∀ (s : State) (rest : List Move), s.inputs = .txStep :: rest → step s = txStep { s with inputs := rest }) ∧
  (∀ s : State, s.inputs = [] → step s = txStep s)

/-- R70, R61: `step` is total. It refuses only a presentation that is no transaction of its port (assumption 15), and
stops only where R112 would take the head of an empty `tx_q` (assumption 14). -/
def Obligations.StepStopsOnlyOnMalformedInputOrEmptyQueue : Prop :=
  (∀ (s : State) (r : Refusal), step s = .refused r →
    ∃ t e rest, s.inputs = .present t :: rest ∧ decode s.rxState t = .error e ∧ r = .malformed e) ∧
  (∀ (s : State) (f : Fault), step s = .fault f → f = .txQueueEmpty ∧ s.txState = .txBody ∧ s.txQ = [])

/-- R111 ("`tx_q` is never empty in `TxStart`"), R29: no step faults in a state that meets the invariant. -/
def Obligations.InvariantStatesNeverFault : Prop :=
  ∀ (s : State) (f : Fault), s.Inv → step s ≠ .fault f

/-- R29, R111, R112, R21: every step keeps the invariant: R29's clauses, parameters of a size the model takes as legal
(R6, R7, R25; assumption 1), the byte-serial framer's clauses (R111, R112), and no frame held at the function level
(R21). -/
def Obligations.StepKeepsTheInvariant : Prop :=
  ∀ s t : State, s.Inv → step s = .next t → t.Inv

/-- R26: the state after reset meets the invariant: R29's clauses, parameters of a size the model takes as legal (R6,
R7, R25; assumption 1), the byte-serial framer's clauses (R111, R112), and no frame held at the function level (R21). -/
def Obligations.ResetMeetsTheInvariant : Prop := State.reset.Inv

/-! Reset. -/

/-- R26: after reset `rx_state` = Idle, `rx_esc` = 0, `rx_len` = 0, `rx_errcnt` = 0, `rx_fault` = 0, event output None,
`diag` empty, `tx_state` = TxIdle, `tx_q` empty. -/
def Obligations.ResetValues : Prop :=
  State.reset.rxState = .idle ∧ State.reset.rxEsc = false ∧ State.reset.rxLen = 0 ∧ State.reset.rxErrcnt = 0 ∧
  State.reset.rxFault = false ∧ State.reset.event = .none ∧ State.reset.diag = [] ∧
  State.reset.txState = .txIdle ∧ State.reset.txQ = []

/-- R190: CMD.RESET completes in any state; every register the spec gives a reset value has it, no event is raised and
no byte emitted, and the first byte after it is decoded in Idle. What is unspecified after reset (`csum_acc`, `tx_hold`)
is left out. The parameters and what the host has presented are as before. -/
def Obligations.CmdResetPutsEveryRegisterAtReset : Prop :=
  ∀ s : State, ∃ t : State, exec .cmdReset s = .next t ∧
    t.rxState = .idle ∧ t.rxEsc = false ∧ t.rxBuf = [] ∧ t.rxLen = 0 ∧ t.rxErrcnt = 0 ∧ t.rxFault = false ∧
    t.txState = .txIdle ∧ t.txQ = [] ∧ t.event = .none ∧ t.diag = [] ∧ t.result = .none ∧
    t.evs = s.evs ∧ t.txs = s.txs ∧ t.params = s.params ∧ t.inputs = s.inputs ∧
    ∀ b : Byte, decode t.rxState { port := .rxs, data := [b] } = decode .idle { port := .rxs, data := [b] }

/-- R17, R90, R146: only CMD.RESET leaves the faulted condition. -/
def Obligations.OnlyResetClearsTheFault : Prop :=
  ∀ (i : Instr) (s t : State), exec i s = .next t → s.rxFault = true → t.rxFault = true ∨ i = .cmdReset

/-! The deframer's rows. -/

/-- R71: a start marker in Idle opens a frame. Event None; `rx_errcnt` and everything else unchanged; in every state that
meets the invariant the buffer was already empty. -/
def Obligations.StartMarkerInIdleOpensAFrame : Prop :=
  ∀ s : State, s.rxFault = false → s.rxState = .idle →
    decode s.rxState { port := .rxs, data := [0xAA#8] } = .ok .rxIdleStart ∧
    exec .rxIdleStart s = .next { s.clearOutputs with rxBuf := [], rxState := .inPacket } ∧
    (s.Inv → s.rxBuf = [])

/-- R72, R73, R74: every other byte in Idle is ignored: nothing is written and event None. After a bare BB the next byte
is decoded in Idle like any other, so BB AA opens a frame at the AA and BB 55 is two ignored bytes. -/
def Obligations.OtherBytesInIdleAreIgnored : Prop :=
  ∀ s : State, s.rxFault = false → s.rxState = .idle →
    (decode s.rxState { port := .rxs, data := [0xCC#8] } = .ok .rxIdleEnd ∧
      exec .rxIdleEnd s = .next s.clearOutputs) ∧
    (decode s.rxState { port := .rxs, data := [0xBB#8] } = .ok .rxIdleEsc ∧
      exec .rxIdleEsc s = .next s.clearOutputs) ∧
    (∀ b : Byte, b ≠ 0xAA#8 → b ≠ 0xCC#8 → b ≠ 0xBB#8 →
      decode s.rxState { port := .rxs, data := [b] } = .ok (.rxIdleOther b) ∧
      exec (.rxIdleOther b) s = .next s.clearOutputs) ∧
    (∃ t, exec (.cmdRxFeed [0xBB#8, 0xAA#8]) s = .next t ∧ t.rxState = .inPacket ∧ t.result = .reports [quiet, quiet]) ∧
    (∃ t, exec (.cmdRxFeed [0xBB#8, 0x55#8]) s = .next t ∧ t.clearOutputs = s.clearOutputs ∧
      t.result = .reports [quiet, quiet])

/-- R75: a start marker in InPacket discards the buffer into `diag` and raises Resync, with an empty buffer too; the
counter is unchanged and the new frame starts empty. `k + 1` start markers in a row from Idle give `k` Resyncs. -/
def Obligations.StartMarkerInPacketResyncs : Prop :=
  (∀ s : State, s.rxFault = false → s.rxState = .inPacket →
    decode s.rxState { port := .rxs, data := [0xAA#8] } = .ok .rxPktStart ∧
    exec .rxPktStart s = .next { s.clearOutputs with
      rxBuf := [], rxState := .inPacket, event := .resync, diag := s.rxBuf,
      evs := s.evs ++ [{ event := .resync, diag := s.rxBuf }] }) ∧
  (∀ (s : State) (k : Nat), s.rxFault = false → s.rxState = .idle →
    ∃ t, exec (.cmdRxFeed (List.replicate (k + 1) 0xAA#8)) s = .next t ∧
      t.result = .reports (quiet :: List.replicate k { event := .resync, diag := [] }))

/-- R76 to R79: an end marker in InPacket. On an empty buffer nothing is written (R79). Otherwise the last byte is
compared with the checksum of the rest: on a match the payload is delivered, the buffer cleared, the counter zero (R77);
on a mismatch the whole buffer goes to `diag` and the counter goes up, saturating (R78). Both end in Idle. No other
deframer row delivers a packet (R77 (c)). What the scratch register `csum_acc` holds afterwards is left open. -/
def Obligations.EndMarkerClosesTheFrame : Prop :=
  (∀ s : State, s.rxFault = false → s.rxState = .inPacket →
    decode s.rxState { port := .rxs, data := [0xCC#8] } = .ok .rxPktEnd ∧
    (s.rxBuf = [] → exec .rxPktEnd s = .next s.clearOutputs) ∧
    (∀ p : List Byte, s.rxBuf = p ++ [checksum p] →
      ∃ acc, exec .rxPktEnd s = .next { s.clearOutputs with
        rxBuf := [], rxErrcnt := 0, rxState := .idle, csumAcc := acc,
        event := .packetComplete p, diag := [], evs := s.evs ++ [{ event := .packetComplete p, diag := [] }] }) ∧
    (∀ (p : List Byte) (c : Byte), s.rxBuf = p ++ [c] → checksum p ≠ c →
      ∃ acc, exec .rxPktEnd s = .next { s.clearOutputs with
        rxBuf := [], rxErrcnt := saturate s.params.errcntMax (s.rxErrcnt + 1), rxState := .idle, csumAcc := acc,
        event := .badChecksum, diag := s.rxBuf, evs := s.evs ++ [{ event := .badChecksum, diag := s.rxBuf }] })) ∧
  (∀ (i : Instr) (s t : State) (p : List Byte), i.context ≠ none → exec i s = .next t →
    t.event = .packetComplete p → i = .rxPktEnd)

/-- R80: an escape marker in InPacket is noted and not appended. -/
def Obligations.EscapeMarkerSetsTheFlag : Prop :=
  ∀ s : State, s.rxFault = false → s.rxState = .inPacket →
    decode s.rxState { port := .rxs, data := [0xBB#8] } = .ok .rxPktEsc ∧
    exec .rxPktEsc s = .next { s.clearOutputs with rxState := .inPacketEscaped } ∧
    State.rxEsc { s.clearOutputs with rxState := .inPacketEscaped } = true

/-- R81: any other byte in InPacket is appended as it is, the escape code values and 00 among them. -/
def Obligations.DataByteIsAppended : Prop :=
  ∀ (s : State) (b : Byte), s.rxFault = false → s.rxState = .inPacket → b ≠ 0xAA#8 → b ≠ 0xCC#8 → b ≠ 0xBB#8 →
    s.params.bufCapacity ≠ .atMost s.rxLen →
    decode s.rxState { port := .rxs, data := [b] } = .ok (.rxPktData b) ∧
    exec (.rxPktData b) s = .next { s.clearOutputs with rxBuf := s.rxBuf ++ [b] }

/-- R83, R84, R85: an escape code appends the marker it stands for as data and clears the flag: it neither resyncs, nor
sets the flag again, nor closes the frame. -/
def Obligations.EscapeCodesAppendMarkers : Prop :=
  ∀ s : State, s.rxFault = false → s.rxState = .inPacketEscaped → s.params.bufCapacity ≠ .atMost s.rxLen →
    (decode s.rxState { port := .rxs, data := [0x55#8] } = .ok .rxEsc55 ∧
      exec .rxEsc55 s = .next { s.clearOutputs with rxBuf := s.rxBuf ++ [0xAA#8], rxState := .inPacket }) ∧
    (decode s.rxState { port := .rxs, data := [0x44#8] } = .ok .rxEsc44 ∧
      exec .rxEsc44 s = .next { s.clearOutputs with rxBuf := s.rxBuf ++ [0xBB#8], rxState := .inPacket }) ∧
    (decode s.rxState { port := .rxs, data := [0x33#8] } = .ok .rxEsc33 ∧
      exec .rxEsc33 s = .next { s.clearOutputs with rxBuf := s.rxBuf ++ [0xCC#8], rxState := .inPacket })

/-- R86, R89: any other byte after an escape marker, AA, BB and CC among them, is dropped and reported; the flag is
cleared, the counter goes up, the buffer is untouched. -/
def Obligations.InvalidEscapeDropsTheByte : Prop :=
  ∀ (s : State) (b : Byte), s.rxFault = false → s.rxState = .inPacketEscaped →
    b ≠ 0x55#8 → b ≠ 0x44#8 → b ≠ 0x33#8 →
    decode s.rxState { port := .rxs, data := [b] } = .ok (.rxEscInvalid b) ∧
    exec (.rxEscInvalid b) s = .next { s.clearOutputs with
      rxState := .inPacket, rxErrcnt := saturate s.params.errcntMax (s.rxErrcnt + 1),
      event := .invalidEscape, diag := [b], evs := s.evs ++ [{ event := .invalidEscape, diag := [b] }] }

/-- R82: a row that appends, on a buffer of `BUF_CAPACITY` bytes, sets `rx_fault` and writes no other register; no event.
With an unbounded capacity this cannot occur. -/
def Obligations.FullBufferFaults : Prop :=
  (∀ s : State, s.rxFault = false → s.params.bufCapacity = .atMost s.rxLen →
    (s.rxState = .inPacket → ∀ b : Byte, b ≠ 0xAA#8 → b ≠ 0xCC#8 → b ≠ 0xBB#8 →
      exec (.rxPktData b) s = .next { s.clearOutputs with rxFault := true }) ∧
    (s.rxState = .inPacketEscaped →
      exec .rxEsc55 s = .next { s.clearOutputs with rxFault := true } ∧
      exec .rxEsc44 s = .next { s.clearOutputs with rxFault := true } ∧
      exec .rxEsc33 s = .next { s.clearOutputs with rxFault := true })) ∧
  (∀ (i : Instr) (s t : State), s.params.bufCapacity = .unbounded → s.rxFault = false → exec i s = .next t →
    t.rxFault = false)

/-- R90 (that the presented byte has no effect is the model's reading, assumption 9): while `rx_fault` = 1 no row, no
CMD.RX.STEP and no CMD.RX.FEED changes a register or raises an event. -/
def Obligations.FaultedDeframerTakesNoStep : Prop :=
  ∀ s : State, s.rxFault = true →
    (∀ i : Instr, i.context ≠ none → exec i s = .next s.clearOutputs) ∧
    (∀ b : Byte, exec (.cmdRxStep b) s = .next (s.clearOutputs.withResult (.reports []))) ∧
    (∀ bs : List Byte, exec (.cmdRxFeed bs) s = .next (s.clearOutputs.withResult (.reports [])))

/-! Feeding the deframer by command. -/

/-- R147, R70: CMD.RX.STEP applies the row that the byte selects in the current state, and its result is that step's
event and `diag`. That a step that faults gives an empty list of reports is the model's reading of R82 ("no event is
produced by this step"), assumption 16. -/
def Obligations.StepCommandAppliesTheSelectedRow : Prop :=
  ∀ (s : State) (b : Byte), s.rxFault = false →
    ∃ i t, decode s.rxState { port := .rxs, data := [b] } = .ok i ∧ exec i s = .next t ∧
      exec (.cmdRxStep b) s =
        .next (t.withResult (.reports (if t.rxFault then [] else [{ event := t.event, diag := t.diag }])))

/-- R148: CMD.RX.FEED is CMD.RX.STEP on each byte in order, with the results in order; an empty chunk does nothing. -/
def Obligations.FeedIsStepOnEachByte : Prop :=
  (∀ s : State, exec (.cmdRxFeed []) s = .next (s.clearOutputs.withResult (.reports []))) ∧
  (∀ (s : State) (b : Byte) (bs : List Byte), ∃ t u v r rs,
    exec (.cmdRxStep b) s = .next t ∧ t.result = .reports r ∧
    exec (.cmdRxFeed bs) t = .next u ∧ u.result = .reports rs ∧
    exec (.cmdRxFeed (b :: bs)) s = .next v ∧ v.result = .reports (r ++ rs) ∧ v.clearOutputs = u.clearOutputs)

/-- R136: any way of cutting a byte sequence into consecutive chunks gives the same final state and the same reports as
feeding it whole. -/
def Obligations.ChunkBoundariesDoNotMatter : Prop :=
  ∀ (s : State) (chunks : List (List Byte)), ∃ u t rs,
    serveChunks chunks s = some (u, rs) ∧
    exec (.cmdRxFeed chunks.flatten) s = .next t ∧ t.result = .reports rs ∧ t.clearOutputs = u.clearOutputs

/-! The framer. -/

/-- R101 to R104, R108, R109, R114: each TX row emits its wire bytes, in every state and at either level of the framer,
and no register of the block is written; TX.START's byte is the first and TX.END's the last of every frame. That the bytes
of a row presented by itself are its result, and go out on TXS only as part of a whole frame, is assumption 13. -/
def Obligations.TxRowsEmitTheirBytes : Prop :=
  (∀ s : State,
    exec .txEscAA s = .next { s.clearOutputs with result := .bytes [0xBB#8, 0x55#8] } ∧
    exec .txEscBB s = .next { s.clearOutputs with result := .bytes [0xBB#8, 0x44#8] } ∧
    exec .txEscCC s = .next { s.clearOutputs with result := .bytes [0xBB#8, 0x33#8] } ∧
    (∀ x : Byte, exec (.txLit x) s = .next { s.clearOutputs with result := .bytes [x] }) ∧
    exec .txStart s = .next { s.clearOutputs with result := .bytes [0xAA#8] } ∧
    exec .txEnd s = .next { s.clearOutputs with result := .bytes [0xCC#8] }) ∧
  (∀ (p : List Byte) (c : Byte),
    (escapeAndFrame p c).head? = some 0xAA#8 ∧ (escapeAndFrame p c).getLast? = some 0xCC#8)

/-- R106, R108, R109, R100: TX.START, the row that each byte of `p ++ [c]` selects, in order, and TX.END, run one after
another from any state, emit exactly EscapeAndFrame(p, c). What each emits is read off its result (assumption 13). -/
def Obligations.RowsInOrderMakeTheFrame : Prop :=
  ∀ (s : State) (p : List Byte) (c : Byte),
    outputs ([.txStart] ++ (p ++ [c]).map classifyTx ++ [.txEnd]) s = some (escapeAndFrame p c)

/-- R106, R149 at the function level (that TXS carries the frame as well as the result is assumption 12): the result is
AA, the escaped payload and checksum byte, CC, whatever the caller's checksum byte; no register is written (R21). -/
def Obligations.FrameCommandDeliversTheFrame : Prop :=
  ∀ (s : State) (p : List Byte) (c : Byte), s.params.framer = .function →
    exec (.cmdTxFrame p c) s = .next { s.clearOutputs with
      txs := s.txs ++ ([0xAA#8] ++ (p ++ [c]).flatMap esc ++ [0xCC#8]),
      result := .bytes ([0xAA#8] ++ (p ++ [c]).flatMap esc ++ [0xCC#8]) }

/-- R107, R150 at the function level (assumptions 11 and 12: the scratch `csum_acc` is left open): CMD.TX.ENCODE is
CMD.TX.FRAME with the checksum of the payload. -/
def Obligations.EncodeCommandFramesWithTheChecksum : Prop :=
  ∀ (s : State) (p : List Byte), s.params.framer = .function →
    ∃ acc, exec (.cmdTxEncode p) s = .next { s.clearOutputs with
      csumAcc := acc, txs := s.txs ++ escapeAndFrame p (checksum p),
      result := .bytes (escapeAndFrame p (checksum p)) }

/-- R111: the byte-serial framer in TxIdle takes a frame: `tx_q <- p ++ [c]`, `tx_state <- TxStart`; CMD.TX.ENCODE is
CMD.TX.FRAME with the payload's checksum. The answer `txAccepted` is the model's choice, assumption 12; the scratch
`csum_acc` is left open, assumption 11. -/
def Obligations.SerialFramerTakesAFrame : Prop :=
  ∀ (s : State) (p : List Byte) (c : Byte), s.params.framer = .byteSerial → s.txState = .txIdle →
    exec (.cmdTxFrame p c) s = .next { s.clearOutputs with
      txQ := p ++ [c], txState := .txStart, result := .txAccepted } ∧
    ∃ acc, exec (.cmdTxEncode p) s = .next { s.clearOutputs with
      csumAcc := acc, txQ := p ++ [checksum p], txState := .txStart, result := .txAccepted }

/-- R113: a frame command presented while `tx_state ≠ TxIdle` is refused: it has no effect. That the host is told so by
the result `txBusy` is the model's choice, assumption 12. -/
def Obligations.BusyFramerRefusesFrames : Prop :=
  ∀ (s : State) (p : List Byte) (c : Byte), s.params.framer = .byteSerial → s.txState ≠ .txIdle →
    exec (.cmdTxFrame p c) s = .next (s.clearOutputs.withResult .txBusy) ∧
    exec (.cmdTxEncode p) s = .next (s.clearOutputs.withResult .txBusy)

/-- R112, the table: what one `tx_step` emits and where it goes, state by state. -/
def Obligations.TxStepByState : Prop :=
  ∀ s : State,
    (s.txState = .txIdle → txStep s = .next s) ∧
    (s.txState = .txStart → txStep s = .next { s with txs := s.txs ++ [0xAA#8], txState := .txBody }) ∧
    (∀ (x : Byte) (q : List Byte), s.txState = .txBody → s.txQ = x :: q →
      txStep s = .next
        (if x = 0xAA#8 then { s with txs := s.txs ++ [0xBB#8], txQ := q, txHold := 0x55#8, txState := .txEsc2 }
         else if x = 0xBB#8 then { s with txs := s.txs ++ [0xBB#8], txQ := q, txHold := 0x44#8, txState := .txEsc2 }
         else if x = 0xCC#8 then { s with txs := s.txs ++ [0xBB#8], txQ := q, txHold := 0x33#8, txState := .txEsc2 }
         else { s with txs := s.txs ++ [x], txQ := q, txState := if q = [] then .txEnd else .txBody })) ∧
    (s.txState = .txEsc2 →
      txStep s = .next { s with txs := s.txs ++ [s.txHold], txState := if s.txQ = [] then .txEnd else .txBody }) ∧
    (s.txState = .txEnd → txStep s = .next { s with txs := s.txs ++ [0xCC#8], txState := .txIdle })

/-- R112, R106, R58: from the acceptance of a frame, as many `tx_step`s as the frame has bytes return to TxIdle; the
bytes emitted are EscapeAndFrame(p, c), one a step, and nothing but the framer's own registers changes. -/
def Obligations.SerialFramerEmitsTheFrame : Prop :=
  ∀ (s t : State) (p : List Byte) (c : Byte), s.params.framer = .byteSerial → s.txState = .txIdle →
    exec (.cmdTxFrame p c) s = .next t →
    (∃ hold, txSteps (escapeAndFrame p c).length t =
      .next { t with txState := .txIdle, txQ := [], txHold := hold, txs := s.txs ++ escapeAndFrame p c }) ∧
    ∀ k, k ≤ (escapeAndFrame p c).length →
      ∃ u, txSteps k t = .next u ∧ u.txs = s.txs ++ (escapeAndFrame p c).take k

/-- R41 (d): the framer "completes one frame before beginning the next, so frames are never interleaved on TXS". Over
every step from a state that meets the invariant. At the function level what a step adds to TXS is whole frames, nothing
else. At the byte-serial level TXS with what is still to be sent after it (`State.toSend`) is kept as it is by every step
but two: a frame command taken with nothing left to send, which adds exactly its own frame, and CMD.RESET, which drops
the rest of the frame and emits nothing (R190). And while a frame is being sent no instruction but CMD.RESET emits a
byte on TXS or touches that frame (R113). That the bytes of TX rows presented by themselves stay off TXS is
assumption 13. -/
def Obligations.FramesAreNeverInterleaved : Prop :=
  (∀ s t : State, s.Inv → s.params.framer = .function → step s = .next t →
    ∃ fs : List (List Byte × Byte), t.txs = s.txs ++ fs.flatMap fun f => escapeAndFrame f.1 f.2) ∧
  (∀ s t : State, s.Inv → s.params.framer = .byteSerial → step s = .next t →
    t.txs ++ t.toSend = s.txs ++ s.toSend ∨
    (s.toSend = [] ∧ ∃ p c, t.txs = s.txs ∧ t.toSend = escapeAndFrame p c) ∨
    (t = { s.resetBlock with inputs := t.inputs } ∧ t.txs = s.txs ∧ t.toSend = [])) ∧
  (∀ (i : Instr) (s t : State), s.framerBusy = true → exec i s = .next t → i ≠ .cmdReset →
    t.txs = s.txs ∧ t.txState = s.txState ∧ t.txQ = s.txQ ∧ t.txHold = s.txHold)

/-- R58, R105: a frame has `n + 3 + m` bytes, `m` of the `n + 1` body bytes being markers, so between `n + 3` and
`2n + 4`; the empty payload's frame is AA 00 CC. -/
def Obligations.FrameLengthCountsMarkers : Prop :=
  (∀ (p : List Byte) (c : Byte),
    (escapeAndFrame p c).length = p.length + 3 + markerCount (p ++ [c]) ∧ markerCount (p ++ [c]) ≤ p.length + 1 ∧
    (escapeAndFrame p c).length ≤ 2 * p.length + 4) ∧
  encodeFrame [] = [0xAA#8, 0x00#8, 0xCC#8]

/-- R115, R59: (a) a frame begins with AA, ends with CC and contains neither elsewhere; (b) every BB in it is followed by
55, 44 or 33; (c) its length; (d) different payloads or checksum bytes give different frames. -/
def Obligations.FramesHideTheMarkers : Prop :=
  (∀ (p : List Byte) (c : Byte),
    (∃ body, escapeAndFrame p c = [0xAA#8] ++ body ++ [0xCC#8] ∧ 0xAA#8 ∉ body ∧ 0xCC#8 ∉ body) ∧
    (∀ k : Nat, (escapeAndFrame p c)[k]? = some 0xBB#8 →
      (escapeAndFrame p c)[k + 1]? = some 0x55#8 ∨ (escapeAndFrame p c)[k + 1]? = some 0x44#8 ∨
        (escapeAndFrame p c)[k + 1]? = some 0x33#8) ∧
    (escapeAndFrame p c).length = p.length + 3 + markerCount (p ++ [c])) ∧
  (∀ (p p' : List Byte) (c c' : Byte), escapeAndFrame p c = escapeAndFrame p' c' → p = p' ∧ c = c')

/-- R64: the two forms of "well-formed frame" agree. -/
def Obligations.WellFormedFramesAreEncodings : Prop :=
  ∀ f : List Byte, isFrame f = true ↔ ∃ p, f = encodeFrame p

/-- R65: the expansions of FRAME and FRAMEC are Encode and EscapeAndFrame, and BODY is LIT on each byte. -/
def Obligations.FramePseudoInstructionsEncode : Prop :=
  (∀ xs : List Byte, expand (.frame xs) = encodeFrame xs) ∧
  (∀ (c : Byte) (xs : List Byte), expand (.framec c xs) = escapeAndFrame xs c) ∧
  (∀ xs : List Byte, expand (.body xs) = assemble (xs.map .lit)) ∧
  (∀ xs : List Byte, expand (.frame xs) = assemble [.start, .body xs, .lit (checksum xs), .fin])

/-! The other commands. -/

/-- R151, R152: the status reads give the current values and change nothing; reading does not clear. -/
def Obligations.StatusReadsChangeNothing : Prop :=
  ∀ s : State,
    exec .cmdRdErrcnt s = .next { s.clearOutputs with result := .errcnt s.rxErrcnt } ∧
    exec .cmdRdStatus s = .next { s.clearOutputs with
      result := .status s.rxState (decide (s.rxState = .inPacketEscaped)) s.rxBuf.length s.rxFault }

/-- R153, R120: CMD.CSUM gives the sum of the bytes modulo 256, 0 for none; only the scratch `csum_acc`, whose value is
left open, may change. -/
def Obligations.ChecksumCommandSumsBytes : Prop :=
  ∀ (s : State) (bs : List Byte),
    ∃ acc b, exec (.cmdCsum bs) s = .next { s.clearOutputs with csumAcc := acc, result := .byte b } ∧
      b.toNat = (bs.map BitVec.toNat).sum % 256

/-- R154, R53, R56: CMD.UNESCAPE maps 55, 44, 33 to AA, BB, CC, every other value to Invalid, and changes nothing; each
escape code is the complement of its marker. -/
def Obligations.UnescapeCommandMapsTheCodes : Prop :=
  (∀ (s : State) (b : Byte), exec (.cmdUnescape b) s = .next { s.clearOutputs with
    result := .unescaped
      (if b = 0x55#8 then some 0xAA#8 else if b = 0x44#8 then some 0xBB#8 else if b = 0x33#8 then some 0xCC#8
       else none) }) ∧
  (∀ x : Byte, x = 0xAA#8 ∨ x = 0xBB#8 ∨ x = 0xCC#8 → unescapeByte (x ^^^ 0xFF#8) = some x)

/-- R155, R110: CMD.REFRAME gives AA, the escaped bytes, CC, and changes nothing; for a non-empty sequence that is
EscapeAndFrame of its bytes but the last and its last; `Reframe([])` is AA CC, no well-formed frame. -/
def Obligations.ReframeCommandFramesAsItStood : Prop :=
  (∀ (s : State) (bs : List Byte), exec (.cmdReframe bs) s = .next { s.clearOutputs with
    result := .bytes ([0xAA#8] ++ bs.flatMap esc ++ [0xCC#8]) }) ∧
  (∀ (p : List Byte) (c : Byte), reframe (p ++ [c]) = escapeAndFrame p c) ∧
  reframe [] = [0xAA#8, 0xCC#8] ∧ isFrame (reframe []) = false

/-! The checksum. -/

/-- R122, R123: a non-empty buffer verifies exactly when the checksum of its bytes but the last is its last; with the
running sum T of the whole buffer, exactly when T - last = last. -/
def Obligations.VerifyByRunningSum : Prop :=
  (∀ (m p : List Byte) (r : Byte), splitBody m = some (p, r) ↔ m = p ++ [r]) ∧
  (∀ (p : List Byte) (r : Byte), verify p r = true ↔ checksum p = r) ∧
  (∀ (p : List Byte) (r : Byte), verify p r = runningVerify (checksum (p ++ [r])) r) ∧
  (∀ c : Byte, verify [] c = true ↔ c = 0#8)

/-- R128 (a), (c), R124: the sum does not see the order of the bytes or bytes of value 00, and it wraps. -/
def Obligations.ChecksumIgnoresOrderAndZeros : Prop :=
  (∀ s t : List Byte, s.Perm t → checksum s = checksum t) ∧
  (∀ s t : List Byte, checksum (s ++ [0x00#8] ++ t) = checksum (s ++ t)) ∧
  add8 0xFF#8 0x01#8 = 0x00#8 ∧ add8 0xFF#8 0xFF#8 = 0xFE#8

/-- R127: a buffer that verifies no longer does after any one of its bytes is changed, so the end marker then raises
BadChecksum. -/
def Obligations.OneChangedByteIsDetected : Prop :=
  ∀ (s : State) (a z : List Byte) (x y : Byte) (p q : List Byte) (c d : Byte), x ≠ y →
    a ++ [x] ++ z = p ++ [c] → a ++ [y] ++ z = q ++ [d] → checksum p = c →
    checksum q ≠ d ∧
    (s.rxFault = false → s.rxState = .inPacket → s.rxBuf = a ++ [y] ++ z →
      ∃ t, exec .rxPktEnd s = .next t ∧ t.event = .badChecksum)

/-! Whole-machine rules. -/

/-- R139: every packet delivered is one whose checksum matched: at that step the buffer was the payload followed by its
checksum. In a chunk the step is the one of the byte at the report's place, in the state that the bytes before it left. -/
def Obligations.NoPacketWithoutChecksumMatch : Prop :=
  (∀ (i : Instr) (s t : State) (p : List Byte), (∀ bs, i ≠ .cmdRxFeed bs) → exec i s = .next t →
    t.event = .packetComplete p → s.rxState = .inPacket ∧ s.rxBuf = p ++ [checksum p]) ∧
  (∀ (s t : State) (bs : List Byte) (rs : List Report) (k : Nat) (p d : List Byte),
    exec (.cmdRxFeed bs) s = .next t → t.result = .reports rs →
    rs[k]? = some { event := .packetComplete p, diag := d } →
    bs[k]? = some 0xCC#8 ∧ ∃ u, exec (.cmdRxFeed (bs.take k)) s = .next u ∧
      u.rxState = .inPacket ∧ u.rxBuf = p ++ [checksum p])

/-- R138: PacketComplete and BadChecksum are raised only by CC, Resync only by AA, InvalidEscape only with an escape
pending, and an escape is pending only after BB; so a chunk raises at most as many of the first as it has CC bytes, and
at most as many Resyncs as it has AA bytes. -/
def Obligations.EventsComeFromTheirBytes : Prop :=
  (∀ (s t : State) (b : Byte), s.rxFault = false → exec (.cmdRxStep b) s = .next t →
    (∀ p, t.event = .packetComplete p → b = 0xCC#8) ∧ (t.event = .badChecksum → b = 0xCC#8) ∧
    (t.event = .resync → b = 0xAA#8) ∧ (t.event = .invalidEscape → s.rxState = .inPacketEscaped) ∧
    (t.rxState = .inPacketEscaped → t.rxFault = false → b = 0xBB#8)) ∧
  (∀ (s t : State) (bs : List Byte) (rs : List Report), exec (.cmdRxFeed bs) s = .next t → t.result = .reports rs →
    rs.countP (fun r => r.isPacket || decide (r.event = .badChecksum)) ≤ bs.count 0xCC#8 ∧
    rs.countP (fun r => decide (r.event = .resync)) ≤ bs.count 0xAA#8)

/-- R142: from a state whose counter is zero, after any chunk the counter is the number of FramingErrors since the most
recent PacketComplete, or since the start if there was none, capped at `ERRCNT_MAX`; it changes with nothing else. -/
def Obligations.CounterCountsFailures : Prop :=
  ∀ (s t : State) (bs : List Byte) (rs : List Report), s.rxErrcnt = 0 → exec (.cmdRxFeed bs) s = .next t →
    t.result = .reports rs → t.rxErrcnt = saturate s.params.errcntMax (failuresSinceSuccess rs)

/-- R14, R13: one byte leaves the buffer, appends one byte at its end, or clears it, and a buffer that is not empty is
cleared on exactly four occasions: a start marker in Idle, a resync, a completed packet, a checksum failure. -/
def Obligations.BufferIsClearedOnFourOccasions : Prop :=
  ∀ (s t : State) (b : Byte), s.rxFault = false → exec (.cmdRxStep b) s = .next t →
    (t.rxBuf = s.rxBuf ∨ t.rxBuf = [] ∨ ∃ x, t.rxBuf = s.rxBuf ++ [x]) ∧
    (s.rxBuf ≠ [] →
      (t.rxBuf = [] ↔
        (s.rxState = .idle ∧ b = 0xAA#8) ∨ (s.rxState = .inPacket ∧ b = 0xAA#8) ∨
        (∃ p, t.event = .packetComplete p) ∨ t.event = .badChecksum))

/-- R15: a byte of marker value enters the buffer only through an escape pair; any other byte enters it only as itself. -/
def Obligations.MarkersEnterTheBufferOnlyEscaped : Prop :=
  ∀ (s t : State) (b x : Byte), s.rxFault = false → exec (.cmdRxStep b) s = .next t → t.rxBuf = s.rxBuf ++ [x] →
    (x = 0xAA#8 ∨ x = 0xBB#8 ∨ x = 0xCC#8 → s.rxState = .inPacketEscaped ∧ unescapeByte b = some x) ∧
    (x ≠ 0xAA#8 → x ≠ 0xBB#8 → x ≠ 0xCC#8 → s.rxState = .inPacket ∧ x = b)

/-- R137, R22: two states that hold the same deframer, whatever else differs (framer, scratch, outputs, records, what is
presented), behave alike on every RX row, CMD.RX.STEP and CMD.RX.FEED: the same registers, event, `diag` and result, and
the same events added to EVS. -/
def Obligations.DeframerDependsOnItsOwnStateAlone : Prop :=
  ∀ (i : Instr) (s s' t : State),
    (i.context ≠ none ∨ (∃ b, i = .cmdRxStep b) ∨ (∃ bs, i = .cmdRxFeed bs)) →
    SameDeframer s s' → exec i s = .next t →
    ∃ t', exec i s' = .next t' ∧ SameDeframer t t' ∧ t.event = t'.event ∧ t.diag = t'.diag ∧ t.result = t'.result ∧
      ∃ es, t.evs = s.evs ++ es ∧ t'.evs = s'.evs ++ es

/-- R114, R21, R215: the framer writes no deframer state and the deframer none of the framer's. -/
def Obligations.FramerAndDeframerDoNotInterlock : Prop :=
  (∀ (i : Instr) (s t : State),
    (i.format = .tx1 ∨ i.format = .tx0 ∨ (∃ p c, i = .cmdTxFrame p c) ∨ (∃ p, i = .cmdTxEncode p)) →
    exec i s = .next t → SameDeframer s t ∧ t.evs = s.evs) ∧
  (∀ s t : State, txStep s = .next t → SameDeframer s t ∧ t.evs = s.evs) ∧
  (∀ (i : Instr) (s t : State),
    (i.context ≠ none ∨ (∃ b, i = .cmdRxStep b) ∨ (∃ bs, i = .cmdRxFeed bs)) →
    exec i s = .next t → SameFramer s t)

/-- R38, R41 (b): what has been emitted on EVS and TXS cannot be undone or reordered: every step only adds at the end. -/
def Obligations.StreamsOnlyGrow : Prop :=
  ∀ s t : State, step s = .next t → ∃ es bs, t.evs = s.evs ++ es ∧ t.txs = s.txs ++ bs

/-- R25 ("fixed at build time"): no step changes the parameters. -/
def Obligations.ParametersAreFixed : Prop :=
  ∀ s t : State, step s = .next t → t.params = s.params

/-! Round trips and recovery. -/

/-- R130: a frame encoded from any payload and fed from Idle raises PacketComplete of the payload at its last byte and
nothing else, and ends in Idle with the buffer empty and the counter zero. -/
def Obligations.RoundTripFromIdle : Prop :=
  ∀ (s : State) (p : List Byte), s.rxFault = false → s.rxState = .idle →
    s.params.bufCapacity.allows (p.length + 1) = true →
    ∃ t, exec (.cmdRxFeed (encodeFrame p)) s = .next t ∧
      t.result = .reports (List.replicate ((encodeFrame p).length - 1) quiet ++
        [{ event := .packetComplete p, diag := [] }]) ∧
      t.evs = s.evs ++ [{ event := .packetComplete p, diag := [] }] ∧
      t.rxState = .idle ∧ t.rxBuf = [] ∧ t.rxErrcnt = 0 ∧ t.rxFault = false

/-- R131: from InPacket with any buffer the frame first raises Resync, with that buffer as `diag`, and then decodes. -/
def Obligations.RoundTripFromInPacket : Prop :=
  ∀ (s : State) (p : List Byte), s.rxFault = false → s.rxState = .inPacket →
    s.params.bufCapacity.allows (p.length + 1) = true →
    ∃ t, exec (.cmdRxFeed (encodeFrame p)) s = .next t ∧
      t.result = .reports ({ event := .resync, diag := s.rxBuf } ::
        List.replicate ((encodeFrame p).length - 2) quiet ++ [{ event := .packetComplete p, diag := [] }]) ∧
      t.evs = s.evs ++ [{ event := .resync, diag := s.rxBuf }, { event := .packetComplete p, diag := [] }] ∧
      t.rxState = .idle ∧ t.rxBuf = [] ∧ t.rxErrcnt = 0 ∧ t.rxFault = false

/-- R132: from InPacketEscaped the start marker is swallowed as an invalid escape, the body joins the buffer B, and the
end marker verifies the whole: PacketComplete(B ++ p) when B sums to zero, BadChecksum otherwise. -/
def Obligations.FrameAfterPendingEscapeMerges : Prop :=
  ∀ (s : State) (p : List Byte), s.rxFault = false → s.rxState = .inPacketEscaped →
    s.params.bufCapacity.allows (s.rxBuf.length + p.length + 1) = true →
    ∃ t, exec (.cmdRxFeed (encodeFrame p)) s = .next t ∧
      t.result = .reports ({ event := .invalidEscape, diag := [0xAA#8] } ::
        List.replicate ((encodeFrame p).length - 2) quiet ++
        [if checksum s.rxBuf = 0#8 then { event := .packetComplete (s.rxBuf ++ p), diag := [] }
         else { event := .badChecksum, diag := s.rxBuf ++ p ++ [checksum p] }]) ∧
      t.rxState = .idle ∧ t.rxBuf = [] ∧ t.rxFault = false

/-- R133: whatever state the deframer is in, after one well-formed frame it is in Idle with an empty buffer, and a second
well-formed frame fed right after it is decoded as from Idle. -/
def Obligations.SecondFrameAlwaysDecodes : Prop :=
  ∀ (s : State) (p q : List Byte), s.rxFault = false →
    s.params.bufCapacity.allows (s.rxBuf.length + p.length + 1) = true →
    s.params.bufCapacity.allows (q.length + 1) = true →
    ∃ t u, exec (.cmdRxFeed (encodeFrame p)) s = .next t ∧
      t.rxState = .idle ∧ t.rxBuf = [] ∧ t.rxFault = false ∧
      exec (.cmdRxFeed (encodeFrame q)) t = .next u ∧
      u.result = .reports (List.replicate ((encodeFrame q).length - 1) quiet ++
        [{ event := .packetComplete q, diag := [] }]) ∧
      u.rxState = .idle ∧ u.rxBuf = [] ∧ u.rxErrcnt = 0

/-- R134: right after a step that raised BadChecksum the deframer is in Idle, right after one that raised InvalidEscape
in InPacket; from either the next well-formed frame decodes, after one Resync in the second case, and the counter is
zero. -/
def Obligations.RecoveryAfterFramingErrors : Prop :=
  ∀ (s t : State) (b : Byte) (p : List Byte), s.rxFault = false → exec (.cmdRxStep b) s = .next t →
    s.params.bufCapacity.allows (p.length + 1) = true →
    (t.event = .badChecksum → t.rxState = .idle ∧
      ∃ u rs, exec (.cmdRxFeed (encodeFrame p)) t = .next u ∧ u.result = .reports rs ∧
        raised rs = [{ event := .packetComplete p, diag := [] }] ∧ u.rxErrcnt = 0) ∧
    (t.event = .invalidEscape → t.rxState = .inPacket ∧
      ∃ u rs, exec (.cmdRxFeed (encodeFrame p)) t = .next u ∧ u.result = .reports rs ∧
        raised rs = [{ event := .resync, diag := t.rxBuf }, { event := .packetComplete p, diag := [] }] ∧
        u.rxErrcnt = 0)

/-- R140: from Idle, bytes with no AA among them raise nothing and change nothing, and what follows them is decoded as if
they had not come. -/
def Obligations.NoiseInIdleIsTransparent : Prop :=
  ∀ (s : State) (noise bs : List Byte), s.rxFault = false → s.rxState = .idle → 0xAA#8 ∉ noise →
    exec (.cmdRxFeed noise) s =
      .next (s.clearOutputs.withResult (.reports (List.replicate noise.length quiet))) ∧
    ∃ t u rs, exec (.cmdRxFeed bs) s = .next t ∧ t.result = .reports rs ∧
      exec (.cmdRxFeed (noise ++ bs)) s = .next u ∧
      u.result = .reports (List.replicate noise.length quiet ++ rs) ∧ u.clearOutputs = t.clearOutputs
end

