-- ==== Sys2Proof/Laws/Operands.lean ====
section
/-! SUPPORT. What the operand forms and the checksum engine do, one lemma each, to be cited instead of unfolding them. -/

namespace Sys2Proof.Machine

/-! The buffer. -/

theorem memWrite_end (m : Memory) (b : Byte) : memWrite m m.length [b] = m ++ [b] := by
  simp [memWrite]

theorem memRead_take (m : Memory) (n : Nat) (h : n ≤ m.length) : memRead m 0 n = some (m.take n) := by
  simp [memRead, h]

@[simp] theorem splitBody_nil : splitBody [] = none := by decide

/-- The body of a frame splits into its payload and its last byte (R57). -/
@[simp] theorem splitBody_append (p : List Byte) (c : Byte) : splitBody (p ++ [c]) = some (p, c) := by
  simp [splitBody, memRead]

theorem splitBody_eq_none {m : Memory} (h : splitBody m = none) : m = [] := by
  rcases List.eq_nil_or_concat m with rfl | ⟨p, c, rfl⟩
  · rfl
  · simp at h

theorem splitBody_eq_some {m : Memory} {p : List Byte} {c : Byte} (h : splitBody m = some (p, c)) : m = p ++ [c] := by
  rcases List.eq_nil_or_concat m with rfl | ⟨p', c', rfl⟩
  · simp at h
  · simp only [List.concat_eq_append, splitBody_append, Option.some.injEq, Prod.mk.injEq] at h
    simp [h.1, h.2]

/-! Escaping. -/

@[simp] theorem escSeq_nil : escSeq [] = [] := rfl

@[simp] theorem escSeq_cons (x : Byte) (s : List Byte) : escSeq (x :: s) = esc x ++ escSeq s := rfl

@[simp] theorem escSeq_append (s t : List Byte) : escSeq (s ++ t) = escSeq s ++ escSeq t := by
  simp [escSeq]

/-- A byte is either a marker with its escape code, or placed as itself (R52, R100). -/
theorem esc_cases (x : Byte) :
    (∃ c, escCode x = some c ∧ esc x = [escMarker, c] ∧ unescapeByte c = some x) ∨
      (escCode x = none ∧ esc x = [x] ∧ notMarker x = true) := by
  by_cases h1 : x = startMarker
  · subst h1; exact .inl ⟨codeOfStart, by decide⟩
  by_cases h2 : x = escMarker
  · subst h2; exact .inl ⟨codeOfEsc, by decide⟩
  by_cases h3 : x = endMarker
  · subst h3; exact .inl ⟨codeOfEnd, by decide⟩
  exact .inr (by simp [esc, escCode, notMarker, h1, h2, h3])

/-- What unescapes is one of the three codes, and gives a marker (R53). -/
theorem unescapeByte_cases {b x : Byte} (h : unescapeByte b = some x) :
    (b = codeOfStart ∧ x = startMarker) ∨ (b = codeOfEsc ∧ x = escMarker) ∨ (b = codeOfEnd ∧ x = endMarker) := by
  unfold unescapeByte at h
  split at h
  · exact .inl ⟨‹_›, by simpa using h.symm⟩
  · split at h
    · exact .inr (.inl ⟨‹_›, by simpa using h.symm⟩)
    · split at h
      · exact .inr (.inr ⟨‹_›, by simpa using h.symm⟩)
      · simp at h

/-! The checksum. -/

@[simp] theorem checksum_nil : checksum [] = 0#8 := rfl

@[simp] theorem checksum_append (s t : List Byte) : checksum (s ++ t) = checksum s + checksum t := by
  simp [checksum, BitVec.ofNat_add]

@[simp] theorem checksum_cons (b : Byte) (s : List Byte) : checksum (b :: s) = b + checksum s := by
  simp [checksum, BitVec.ofNat_add]

/-- The 9-bit sum with its carry dropped is 8-bit addition (R121, R124). -/
theorem add8_eq (a b : Byte) : add8 a b = a + b := by
  apply BitVec.eq_of_toNat_eq
  have ha := a.isLt
  have hb := b.isLt
  simp only [add8, BitVec.extractLsb'_toNat, BitVec.toNat_add, BitVec.truncate_eq_setWidth, BitVec.toNat_setWidth,
    Nat.shiftRight_zero]
  omega

theorem foldl_csumAdd (bs : List Byte) (s : State) :
    bs.foldl State.csumAdd s = { s with csumAcc := s.csumAcc + checksum bs } := by
  induction bs generalizing s with
  | nil => simp
  | cons b bs ih => simp [ih, State.csumAdd, add8_eq, BitVec.add_assoc]

/-- The engine leaves the checksum in `csum_acc` and writes nothing else (R121). -/
@[simp] theorem State.runChecksum_eq (s : State) (bs : List Byte) :
    s.runChecksum bs = { s with csumAcc := checksum bs } := by
  simp [State.runChecksum, State.csumClr, foldl_csumAdd]

end Sys2Proof.Machine
end

