-- ==== Sys2Proof/Laws/State.lean ====
section
/-! SUPPORT. One lemma per field per update of the state, each true by unfolding, so that no proof unfolds an update. -/

namespace Sys2Proof.Machine

@[simp] theorem State.clearOutputs_rxState (s : State) : s.clearOutputs.rxState = s.rxState := rfl
@[simp] theorem State.clearOutputs_rxBuf (s : State) : s.clearOutputs.rxBuf = s.rxBuf := rfl
@[simp] theorem State.clearOutputs_rxErrcnt (s : State) : s.clearOutputs.rxErrcnt = s.rxErrcnt := rfl
@[simp] theorem State.clearOutputs_rxFault (s : State) : s.clearOutputs.rxFault = s.rxFault := rfl
@[simp] theorem State.clearOutputs_csumAcc (s : State) : s.clearOutputs.csumAcc = s.csumAcc := rfl
@[simp] theorem State.clearOutputs_txState (s : State) : s.clearOutputs.txState = s.txState := rfl
@[simp] theorem State.clearOutputs_txQ (s : State) : s.clearOutputs.txQ = s.txQ := rfl
@[simp] theorem State.clearOutputs_txHold (s : State) : s.clearOutputs.txHold = s.txHold := rfl
@[simp] theorem State.clearOutputs_params (s : State) : s.clearOutputs.params = s.params := rfl
@[simp] theorem State.clearOutputs_event (s : State) : s.clearOutputs.event = .none := rfl
@[simp] theorem State.clearOutputs_diag (s : State) : s.clearOutputs.diag = [] := rfl
@[simp] theorem State.clearOutputs_result (s : State) : s.clearOutputs.result = .none := rfl
@[simp] theorem State.clearOutputs_inputs (s : State) : s.clearOutputs.inputs = s.inputs := rfl
@[simp] theorem State.clearOutputs_evs (s : State) : s.clearOutputs.evs = s.evs := rfl
@[simp] theorem State.clearOutputs_txs (s : State) : s.clearOutputs.txs = s.txs := rfl

@[simp] theorem State.withResult_rxState (s : State) (r : Result) : (s.withResult r).rxState = s.rxState := rfl
@[simp] theorem State.withResult_rxBuf (s : State) (r : Result) : (s.withResult r).rxBuf = s.rxBuf := rfl
@[simp] theorem State.withResult_rxErrcnt (s : State) (r : Result) : (s.withResult r).rxErrcnt = s.rxErrcnt := rfl
@[simp] theorem State.withResult_rxFault (s : State) (r : Result) : (s.withResult r).rxFault = s.rxFault := rfl
@[simp] theorem State.withResult_csumAcc (s : State) (r : Result) : (s.withResult r).csumAcc = s.csumAcc := rfl
@[simp] theorem State.withResult_txState (s : State) (r : Result) : (s.withResult r).txState = s.txState := rfl
@[simp] theorem State.withResult_txQ (s : State) (r : Result) : (s.withResult r).txQ = s.txQ := rfl
@[simp] theorem State.withResult_txHold (s : State) (r : Result) : (s.withResult r).txHold = s.txHold := rfl
@[simp] theorem State.withResult_params (s : State) (r : Result) : (s.withResult r).params = s.params := rfl
@[simp] theorem State.withResult_event (s : State) (r : Result) : (s.withResult r).event = s.event := rfl
@[simp] theorem State.withResult_diag (s : State) (r : Result) : (s.withResult r).diag = s.diag := rfl
@[simp] theorem State.withResult_result (s : State) (r : Result) : (s.withResult r).result = r := rfl
@[simp] theorem State.withResult_inputs (s : State) (r : Result) : (s.withResult r).inputs = s.inputs := rfl
@[simp] theorem State.withResult_evs (s : State) (r : Result) : (s.withResult r).evs = s.evs := rfl
@[simp] theorem State.withResult_txs (s : State) (r : Result) : (s.withResult r).txs = s.txs := rfl

@[simp] theorem State.emit_rxState (s : State) (bs : List Byte) : (s.emit bs).rxState = s.rxState := rfl
@[simp] theorem State.emit_rxBuf (s : State) (bs : List Byte) : (s.emit bs).rxBuf = s.rxBuf := rfl
@[simp] theorem State.emit_rxErrcnt (s : State) (bs : List Byte) : (s.emit bs).rxErrcnt = s.rxErrcnt := rfl
@[simp] theorem State.emit_rxFault (s : State) (bs : List Byte) : (s.emit bs).rxFault = s.rxFault := rfl
@[simp] theorem State.emit_csumAcc (s : State) (bs : List Byte) : (s.emit bs).csumAcc = s.csumAcc := rfl
@[simp] theorem State.emit_txState (s : State) (bs : List Byte) : (s.emit bs).txState = s.txState := rfl
@[simp] theorem State.emit_txQ (s : State) (bs : List Byte) : (s.emit bs).txQ = s.txQ := rfl
@[simp] theorem State.emit_txHold (s : State) (bs : List Byte) : (s.emit bs).txHold = s.txHold := rfl
@[simp] theorem State.emit_params (s : State) (bs : List Byte) : (s.emit bs).params = s.params := rfl
@[simp] theorem State.emit_event (s : State) (bs : List Byte) : (s.emit bs).event = s.event := rfl
@[simp] theorem State.emit_diag (s : State) (bs : List Byte) : (s.emit bs).diag = s.diag := rfl
@[simp] theorem State.emit_result (s : State) (bs : List Byte) : (s.emit bs).result = s.result := rfl
@[simp] theorem State.emit_inputs (s : State) (bs : List Byte) : (s.emit bs).inputs = s.inputs := rfl
@[simp] theorem State.emit_evs (s : State) (bs : List Byte) : (s.emit bs).evs = s.evs := rfl
@[simp] theorem State.emit_txs (s : State) (bs : List Byte) : (s.emit bs).txs = s.txs ++ bs := rfl

@[simp] theorem State.bufClear_rxState (s : State) : s.bufClear.rxState = s.rxState := rfl
@[simp] theorem State.bufClear_rxBuf (s : State) : s.bufClear.rxBuf = [] := rfl
@[simp] theorem State.bufClear_rxErrcnt (s : State) : s.bufClear.rxErrcnt = s.rxErrcnt := rfl
@[simp] theorem State.bufClear_rxFault (s : State) : s.bufClear.rxFault = s.rxFault := rfl
@[simp] theorem State.bufClear_csumAcc (s : State) : s.bufClear.csumAcc = s.csumAcc := rfl
@[simp] theorem State.bufClear_txState (s : State) : s.bufClear.txState = s.txState := rfl
@[simp] theorem State.bufClear_txQ (s : State) : s.bufClear.txQ = s.txQ := rfl
@[simp] theorem State.bufClear_txHold (s : State) : s.bufClear.txHold = s.txHold := rfl
@[simp] theorem State.bufClear_params (s : State) : s.bufClear.params = s.params := rfl
@[simp] theorem State.bufClear_event (s : State) : s.bufClear.event = s.event := rfl
@[simp] theorem State.bufClear_diag (s : State) : s.bufClear.diag = s.diag := rfl
@[simp] theorem State.bufClear_result (s : State) : s.bufClear.result = s.result := rfl
@[simp] theorem State.bufClear_inputs (s : State) : s.bufClear.inputs = s.inputs := rfl
@[simp] theorem State.bufClear_evs (s : State) : s.bufClear.evs = s.evs := rfl
@[simp] theorem State.bufClear_txs (s : State) : s.bufClear.txs = s.txs := rfl

@[simp] theorem State.raiseEvent_rxState (s : State) (e : Event) (d : List Byte) : (s.raiseEvent e d).rxState = s.rxState := rfl
@[simp] theorem State.raiseEvent_rxBuf (s : State) (e : Event) (d : List Byte) : (s.raiseEvent e d).rxBuf = s.rxBuf := rfl
@[simp] theorem State.raiseEvent_rxErrcnt (s : State) (e : Event) (d : List Byte) : (s.raiseEvent e d).rxErrcnt = s.rxErrcnt := rfl
@[simp] theorem State.raiseEvent_rxFault (s : State) (e : Event) (d : List Byte) : (s.raiseEvent e d).rxFault = s.rxFault := rfl
@[simp] theorem State.raiseEvent_csumAcc (s : State) (e : Event) (d : List Byte) : (s.raiseEvent e d).csumAcc = s.csumAcc := rfl
@[simp] theorem State.raiseEvent_txState (s : State) (e : Event) (d : List Byte) : (s.raiseEvent e d).txState = s.txState := rfl
@[simp] theorem State.raiseEvent_txQ (s : State) (e : Event) (d : List Byte) : (s.raiseEvent e d).txQ = s.txQ := rfl
@[simp] theorem State.raiseEvent_txHold (s : State) (e : Event) (d : List Byte) : (s.raiseEvent e d).txHold = s.txHold := rfl
@[simp] theorem State.raiseEvent_params (s : State) (e : Event) (d : List Byte) : (s.raiseEvent e d).params = s.params := rfl
@[simp] theorem State.raiseEvent_event (s : State) (e : Event) (d : List Byte) : (s.raiseEvent e d).event = e := rfl
@[simp] theorem State.raiseEvent_diag (s : State) (e : Event) (d : List Byte) : (s.raiseEvent e d).diag = d := rfl
@[simp] theorem State.raiseEvent_result (s : State) (e : Event) (d : List Byte) : (s.raiseEvent e d).result = s.result := rfl
@[simp] theorem State.raiseEvent_inputs (s : State) (e : Event) (d : List Byte) : (s.raiseEvent e d).inputs = s.inputs := rfl
@[simp] theorem State.raiseEvent_evs (s : State) (e : Event) (d : List Byte) : (s.raiseEvent e d).evs = s.evs ++ [{ event := e, diag := d }] := rfl
@[simp] theorem State.raiseEvent_txs (s : State) (e : Event) (d : List Byte) : (s.raiseEvent e d).txs = s.txs := rfl

@[simp] theorem State.takeOverflow_rxState (s : State) : s.takeOverflow.rxState = s.rxState := rfl
@[simp] theorem State.takeOverflow_rxBuf (s : State) : s.takeOverflow.rxBuf = s.rxBuf := rfl
@[simp] theorem State.takeOverflow_rxErrcnt (s : State) : s.takeOverflow.rxErrcnt = s.rxErrcnt := rfl
@[simp] theorem State.takeOverflow_rxFault (s : State) : s.takeOverflow.rxFault = true := rfl
@[simp] theorem State.takeOverflow_csumAcc (s : State) : s.takeOverflow.csumAcc = s.csumAcc := rfl
@[simp] theorem State.takeOverflow_txState (s : State) : s.takeOverflow.txState = s.txState := rfl
@[simp] theorem State.takeOverflow_txQ (s : State) : s.takeOverflow.txQ = s.txQ := rfl
@[simp] theorem State.takeOverflow_txHold (s : State) : s.takeOverflow.txHold = s.txHold := rfl
@[simp] theorem State.takeOverflow_params (s : State) : s.takeOverflow.params = s.params := rfl
@[simp] theorem State.takeOverflow_event (s : State) : s.takeOverflow.event = s.event := rfl
@[simp] theorem State.takeOverflow_diag (s : State) : s.takeOverflow.diag = s.diag := rfl
@[simp] theorem State.takeOverflow_result (s : State) : s.takeOverflow.result = s.result := rfl
@[simp] theorem State.takeOverflow_inputs (s : State) : s.takeOverflow.inputs = s.inputs := rfl
@[simp] theorem State.takeOverflow_evs (s : State) : s.takeOverflow.evs = s.evs := rfl
@[simp] theorem State.takeOverflow_txs (s : State) : s.takeOverflow.txs = s.txs := rfl

@[simp] theorem State.freshEvent_rxState (s : State) : s.freshEvent.rxState = s.rxState := rfl
@[simp] theorem State.freshEvent_rxBuf (s : State) : s.freshEvent.rxBuf = s.rxBuf := rfl
@[simp] theorem State.freshEvent_rxErrcnt (s : State) : s.freshEvent.rxErrcnt = s.rxErrcnt := rfl
@[simp] theorem State.freshEvent_rxFault (s : State) : s.freshEvent.rxFault = s.rxFault := rfl
@[simp] theorem State.freshEvent_csumAcc (s : State) : s.freshEvent.csumAcc = s.csumAcc := rfl
@[simp] theorem State.freshEvent_txState (s : State) : s.freshEvent.txState = s.txState := rfl
@[simp] theorem State.freshEvent_txQ (s : State) : s.freshEvent.txQ = s.txQ := rfl
@[simp] theorem State.freshEvent_txHold (s : State) : s.freshEvent.txHold = s.txHold := rfl
@[simp] theorem State.freshEvent_params (s : State) : s.freshEvent.params = s.params := rfl
@[simp] theorem State.freshEvent_event (s : State) : s.freshEvent.event = .none := rfl
@[simp] theorem State.freshEvent_diag (s : State) : s.freshEvent.diag = [] := rfl
@[simp] theorem State.freshEvent_result (s : State) : s.freshEvent.result = s.result := rfl
@[simp] theorem State.freshEvent_inputs (s : State) : s.freshEvent.inputs = s.inputs := rfl
@[simp] theorem State.freshEvent_evs (s : State) : s.freshEvent.evs = s.evs := rfl
@[simp] theorem State.freshEvent_txs (s : State) : s.freshEvent.txs = s.txs := rfl

@[simp] theorem State.csumClr_rxState (s : State) : s.csumClr.rxState = s.rxState := rfl
@[simp] theorem State.csumClr_rxBuf (s : State) : s.csumClr.rxBuf = s.rxBuf := rfl
@[simp] theorem State.csumClr_rxErrcnt (s : State) : s.csumClr.rxErrcnt = s.rxErrcnt := rfl
@[simp] theorem State.csumClr_rxFault (s : State) : s.csumClr.rxFault = s.rxFault := rfl
@[simp] theorem State.csumClr_csumAcc (s : State) : s.csumClr.csumAcc = 0x00#8 := rfl
@[simp] theorem State.csumClr_txState (s : State) : s.csumClr.txState = s.txState := rfl
@[simp] theorem State.csumClr_txQ (s : State) : s.csumClr.txQ = s.txQ := rfl
@[simp] theorem State.csumClr_txHold (s : State) : s.csumClr.txHold = s.txHold := rfl
@[simp] theorem State.csumClr_params (s : State) : s.csumClr.params = s.params := rfl
@[simp] theorem State.csumClr_event (s : State) : s.csumClr.event = s.event := rfl
@[simp] theorem State.csumClr_diag (s : State) : s.csumClr.diag = s.diag := rfl
@[simp] theorem State.csumClr_result (s : State) : s.csumClr.result = s.result := rfl
@[simp] theorem State.csumClr_inputs (s : State) : s.csumClr.inputs = s.inputs := rfl
@[simp] theorem State.csumClr_evs (s : State) : s.csumClr.evs = s.evs := rfl
@[simp] theorem State.csumClr_txs (s : State) : s.csumClr.txs = s.txs := rfl

@[simp] theorem State.csumAdd_rxState (s : State) (b : Byte) : (s.csumAdd b).rxState = s.rxState := rfl
@[simp] theorem State.csumAdd_rxBuf (s : State) (b : Byte) : (s.csumAdd b).rxBuf = s.rxBuf := rfl
@[simp] theorem State.csumAdd_rxErrcnt (s : State) (b : Byte) : (s.csumAdd b).rxErrcnt = s.rxErrcnt := rfl
@[simp] theorem State.csumAdd_rxFault (s : State) (b : Byte) : (s.csumAdd b).rxFault = s.rxFault := rfl
@[simp] theorem State.csumAdd_csumAcc (s : State) (b : Byte) : (s.csumAdd b).csumAcc = add8 s.csumAcc b := rfl
@[simp] theorem State.csumAdd_txState (s : State) (b : Byte) : (s.csumAdd b).txState = s.txState := rfl
@[simp] theorem State.csumAdd_txQ (s : State) (b : Byte) : (s.csumAdd b).txQ = s.txQ := rfl
@[simp] theorem State.csumAdd_txHold (s : State) (b : Byte) : (s.csumAdd b).txHold = s.txHold := rfl
@[simp] theorem State.csumAdd_params (s : State) (b : Byte) : (s.csumAdd b).params = s.params := rfl
@[simp] theorem State.csumAdd_event (s : State) (b : Byte) : (s.csumAdd b).event = s.event := rfl
@[simp] theorem State.csumAdd_diag (s : State) (b : Byte) : (s.csumAdd b).diag = s.diag := rfl
@[simp] theorem State.csumAdd_result (s : State) (b : Byte) : (s.csumAdd b).result = s.result := rfl
@[simp] theorem State.csumAdd_inputs (s : State) (b : Byte) : (s.csumAdd b).inputs = s.inputs := rfl
@[simp] theorem State.csumAdd_evs (s : State) (b : Byte) : (s.csumAdd b).evs = s.evs := rfl
@[simp] theorem State.csumAdd_txs (s : State) (b : Byte) : (s.csumAdd b).txs = s.txs := rfl

/-! The derived views and tests read only the fields they are of. -/

theorem State.rxEsc_eq (s : State) : s.rxEsc = decide (s.rxState = .inPacketEscaped) := rfl

theorem State.rxLen_eq (s : State) : s.rxLen = s.rxBuf.length := rfl

@[simp] theorem State.clearOutputs_clearOutputs (s : State) : s.clearOutputs.clearOutputs = s.clearOutputs := rfl

@[simp] theorem State.withResult_clearOutputs (s : State) (r : Result) :
    (s.withResult r).clearOutputs = s.clearOutputs := rfl

@[simp] theorem State.clearOutputs_freshEvent (s : State) : s.clearOutputs.freshEvent = s.clearOutputs := rfl

@[simp] theorem State.clearOutputs_bufFull (s : State) : s.clearOutputs.bufFull = s.bufFull := rfl

@[simp] theorem State.freshEvent_bufFull (s : State) : s.freshEvent.bufFull = s.bufFull := rfl

@[simp] theorem State.clearOutputs_countedErrcnt (s : State) : s.clearOutputs.countedErrcnt = s.countedErrcnt := rfl

@[simp] theorem State.freshEvent_countedErrcnt (s : State) : s.freshEvent.countedErrcnt = s.countedErrcnt := rfl

end Sys2Proof.Machine
end

