-- ==== Sys2Proof/Laws/Ops.lean ====
section
/-! SUPPORT. Everything each shared operation of the deframer can do. -/

namespace Sys2Proof.Machine

/-! Taking an event (R167), one lemma per event. -/

theorem State.takeEvent_packetComplete (s : State) (p d : List Byte) :
    s.takeEvent (.packetComplete p) d =
      { s with
        rxBuf := [], rxErrcnt := 0, rxState := .idle, event := .packetComplete p, diag := d,
        evs := s.evs ++ [{ event := .packetComplete p, diag := d }] } := rfl

theorem State.takeEvent_badChecksum (s : State) (d : List Byte) :
    s.takeEvent .badChecksum d =
      { s with
        rxBuf := [], rxErrcnt := s.countedErrcnt, rxState := .idle, event := .badChecksum, diag := d,
        evs := s.evs ++ [{ event := .badChecksum, diag := d }] } := rfl

theorem State.takeEvent_invalidEscape (s : State) (d : List Byte) :
    s.takeEvent .invalidEscape d =
      { s with
        rxErrcnt := s.countedErrcnt, rxState := .inPacket, event := .invalidEscape, diag := d,
        evs := s.evs ++ [{ event := .invalidEscape, diag := d }] } := rfl

theorem State.takeEvent_resync (s : State) (d : List Byte) :
    s.takeEvent .resync d =
      { s with
        rxBuf := [], rxState := .inPacket, event := .resync, diag := d,
        evs := s.evs ++ [{ event := .resync, diag := d }] } := rfl

/-! Appending (R9, R82). -/

theorem State.appendThen_room {s : State} (h : s.bufFull = false) (b : Byte) (next : DecoderState) :
    s.appendThen b next = { s with rxBuf := s.rxBuf ++ [b], rxState := next } := by
  simp [State.appendThen, h, State.rxLen, memWrite_end]

theorem State.appendThen_full {s : State} (h : s.bufFull = true) (b : Byte) (next : DecoderState) :
    s.appendThen b next = { s with rxFault := true } := by
  simp [State.appendThen, h, State.takeOverflow]

/-! What an append never writes, whether it faults or not. -/

@[simp] theorem State.appendThen_rxErrcnt (s : State) (b : Byte) (next : DecoderState) :
    (s.appendThen b next).rxErrcnt = s.rxErrcnt := by
  unfold State.appendThen; split <;> rfl

@[simp] theorem State.appendThen_csumAcc (s : State) (b : Byte) (next : DecoderState) :
    (s.appendThen b next).csumAcc = s.csumAcc := by
  unfold State.appendThen; split <;> rfl

@[simp] theorem State.appendThen_txState (s : State) (b : Byte) (next : DecoderState) :
    (s.appendThen b next).txState = s.txState := by
  unfold State.appendThen; split <;> rfl

@[simp] theorem State.appendThen_txQ (s : State) (b : Byte) (next : DecoderState) :
    (s.appendThen b next).txQ = s.txQ := by
  unfold State.appendThen; split <;> rfl

@[simp] theorem State.appendThen_txHold (s : State) (b : Byte) (next : DecoderState) :
    (s.appendThen b next).txHold = s.txHold := by
  unfold State.appendThen; split <;> rfl

@[simp] theorem State.appendThen_params (s : State) (b : Byte) (next : DecoderState) :
    (s.appendThen b next).params = s.params := by
  unfold State.appendThen; split <;> rfl

@[simp] theorem State.appendThen_event (s : State) (b : Byte) (next : DecoderState) :
    (s.appendThen b next).event = s.event := by
  unfold State.appendThen; split <;> rfl

@[simp] theorem State.appendThen_diag (s : State) (b : Byte) (next : DecoderState) :
    (s.appendThen b next).diag = s.diag := by
  unfold State.appendThen; split <;> rfl

@[simp] theorem State.appendThen_result (s : State) (b : Byte) (next : DecoderState) :
    (s.appendThen b next).result = s.result := by
  unfold State.appendThen; split <;> rfl

@[simp] theorem State.appendThen_inputs (s : State) (b : Byte) (next : DecoderState) :
    (s.appendThen b next).inputs = s.inputs := by
  unfold State.appendThen; split <;> rfl

@[simp] theorem State.appendThen_evs (s : State) (b : Byte) (next : DecoderState) :
    (s.appendThen b next).evs = s.evs := by
  unfold State.appendThen; split <;> rfl

@[simp] theorem State.appendThen_txs (s : State) (b : Byte) (next : DecoderState) :
    (s.appendThen b next).txs = s.txs := by
  unfold State.appendThen; split <;> rfl

/-- A full buffer is one whose length is its capacity (R82). -/
theorem State.bufFull_iff (s : State) : s.bufFull = true ↔ s.params.bufCapacity = .atMost s.rxBuf.length := by
  unfold State.bufFull State.rxLen
  cases s.params.bufCapacity <;> simp [eq_comm]

/-- A buffer with room for one more byte is not full. -/
theorem State.not_full_of_allows {s : State} (h : s.params.bufCapacity.allows (s.rxBuf.length + 1) = true) :
    s.bufFull = false := by
  unfold State.bufFull State.rxLen
  cases hc : s.params.bufCapacity with
  | unbounded => rfl
  | atMost n => simp [hc, Limit.allows] at h ⊢; omega

theorem Limit.allows_of_le {l : Limit} {m n : Nat} (h : l.allows n = true) (hmn : m ≤ n) : l.allows m = true := by
  cases l with
  | unbounded => rfl
  | atMost k => simp [Limit.allows] at h ⊢; omega

theorem saturate_allows (l : Limit) (n : Nat) : l.allows (saturate l n) = true := by
  cases l <;> simp [Limit.allows, saturate]

/-! Closing a frame (R76). -/

theorem rulePktEnd_empty {s : State} (h : s.rxBuf = []) : rulePktEnd s = s := by
  simp [rulePktEnd, h]

theorem rulePktEnd_match {s : State} {p : List Byte} (h : s.rxBuf = p ++ [checksum p]) :
    rulePktEnd s = State.takeEvent { s with csumAcc := checksum p } (.packetComplete p) [] := by
  simp [rulePktEnd, h]

theorem rulePktEnd_mismatch {s : State} {p : List Byte} {c : Byte} (h : s.rxBuf = p ++ [c]) (hc : checksum p ≠ c) :
    rulePktEnd s = State.takeEvent { s with csumAcc := checksum p } .badChecksum s.rxBuf := by
  simp [rulePktEnd, h, hc]

/-! The deframer's step. -/

theorem rxStep_faulted {s : State} (h : s.rxFault = true) (b : Byte) : rxStep b s = s := by
  simp [rxStep, h]

/-! Which rule a byte selects (R54, R70), one lemma per row. -/

theorem notMarker_iff {b : Byte} : notMarker b = true ↔ b ≠ startMarker ∧ b ≠ escMarker ∧ b ≠ endMarker := by
  simp [notMarker, and_assoc]

theorem notEscapeCode_iff {b : Byte} : notEscapeCode b = true ↔ unescapeByte b = none := by
  unfold unescapeByte
  by_cases h1 : b = codeOfStart
  · subst h1; decide
  by_cases h2 : b = codeOfEsc
  · subst h2; decide
  by_cases h3 : b = codeOfEnd
  · subst h3; decide
  simp [notEscapeCode, h1, h2, h3]

section Rows

variable {s : State} (hf : s.rxFault = false)
include hf

theorem rxStep_idle_start (hs : s.rxState = .idle) : rxStep startMarker s = ruleIdleStart s := by
  simp [rxStep, hf, hs]

theorem rxStep_idle_other (hs : s.rxState = .idle) {b : Byte} (hb : b ≠ startMarker) : rxStep b s = s := by
  simp [rxStep, hf, hs, hb, ruleIdleEnd, ruleIdleEsc, ruleIdleOther]

theorem rxStep_pkt_start (hs : s.rxState = .inPacket) : rxStep startMarker s = rulePktStart s := by
  simp [rxStep, hf, hs]

theorem rxStep_pkt_end (hs : s.rxState = .inPacket) : rxStep endMarker s = rulePktEnd s := by
  simp [rxStep, hf, hs, startMarker, endMarker]

theorem rxStep_pkt_esc (hs : s.rxState = .inPacket) : rxStep escMarker s = rulePktEsc s := by
  simp [rxStep, hf, hs, startMarker, endMarker, escMarker]

theorem rxStep_pkt_data (hs : s.rxState = .inPacket) {b : Byte} (hb : notMarker b = true) :
    rxStep b s = rulePktData b s := by
  obtain ⟨h1, h2, h3⟩ := notMarker_iff.1 hb
  simp [rxStep, hf, hs, h1, h2, h3]

theorem rxStep_esc_valid (hs : s.rxState = .inPacketEscaped) {b x : Byte} (hb : unescapeByte b = some x) :
    rxStep b s = s.appendThen x .inPacket := by
  rcases unescapeByte_cases hb with ⟨rfl, rfl⟩ | ⟨rfl, rfl⟩ | ⟨rfl, rfl⟩ <;>
    simp [rxStep, hf, hs, ruleEsc55, ruleEsc44, ruleEsc33, codeOfStart, codeOfEsc, codeOfEnd]

theorem rxStep_esc_invalid (hs : s.rxState = .inPacketEscaped) {b : Byte} (hb : unescapeByte b = none) :
    rxStep b s = s.takeEvent .invalidEscape [b] := by
  have h1 : b ≠ codeOfStart := by rintro rfl; revert hb; decide
  have h2 : b ≠ codeOfEsc := by rintro rfl; revert hb; decide
  have h3 : b ≠ codeOfEnd := by rintro rfl; revert hb; decide
  simp [rxStep, hf, hs, h1, h2, h3, ruleEscInvalid]

end Rows

/-- Everything a step of an unfaulted deframer can do (R70 to R86). -/
theorem rxStep_cases {s : State} (hf : s.rxFault = false) (b : Byte) :
    (s.rxState = .idle ∧ b = startMarker ∧ rxStep b s = { s with rxBuf := [], rxState := .inPacket }) ∨
    (s.rxState = .idle ∧ b ≠ startMarker ∧ rxStep b s = s) ∨
    (s.rxState = .inPacket ∧ b = startMarker ∧ rxStep b s = s.takeEvent .resync s.rxBuf) ∨
    (s.rxState = .inPacket ∧ b = endMarker ∧ s.rxBuf = [] ∧ rxStep b s = s) ∨
    (∃ p, s.rxState = .inPacket ∧ b = endMarker ∧ s.rxBuf = p ++ [checksum p] ∧
      rxStep b s = State.takeEvent { s with csumAcc := checksum p } (.packetComplete p) []) ∨
    (∃ p c, s.rxState = .inPacket ∧ b = endMarker ∧ s.rxBuf = p ++ [c] ∧ checksum p ≠ c ∧
      rxStep b s = State.takeEvent { s with csumAcc := checksum p } .badChecksum s.rxBuf) ∨
    (s.rxState = .inPacket ∧ b = escMarker ∧ rxStep b s = { s with rxState := .inPacketEscaped }) ∨
    (s.rxState = .inPacket ∧ notMarker b = true ∧ rxStep b s = s.appendThen b .inPacket) ∨
    (∃ x, s.rxState = .inPacketEscaped ∧ unescapeByte b = some x ∧ rxStep b s = s.appendThen x .inPacket) ∨
    (s.rxState = .inPacketEscaped ∧ unescapeByte b = none ∧ rxStep b s = s.takeEvent .invalidEscape [b]) := by
  cases hs : s.rxState with
  | idle =>
    by_cases h1 : b = startMarker
    · exact .inl ⟨rfl, h1, h1 ▸ rxStep_idle_start hf hs⟩
    · exact .inr (.inl ⟨rfl, h1, rxStep_idle_other hf hs h1⟩)
  | inPacket =>
    refine .inr (.inr ?_)
    by_cases h1 : b = startMarker
    · exact .inl ⟨rfl, h1, h1 ▸ rxStep_pkt_start hf hs⟩
    refine .inr ?_
    by_cases h2 : b = endMarker
    · have h := h2 ▸ rxStep_pkt_end hf hs
      rcases List.eq_nil_or_concat s.rxBuf with hb | ⟨p, c, hb⟩
      · exact .inl ⟨rfl, h2, hb, h.trans (rulePktEnd_empty hb)⟩
      · rw [List.concat_eq_append] at hb
        by_cases hc : checksum p = c
        · subst hc
          exact .inr (.inl ⟨p, rfl, h2, hb, h.trans (rulePktEnd_match hb)⟩)
        · exact .inr (.inr (.inl ⟨p, c, rfl, h2, hb, hc, h.trans (rulePktEnd_mismatch hb hc)⟩))
    refine .inr (.inr (.inr ?_))
    by_cases h3 : b = escMarker
    · exact .inl ⟨rfl, h3, h3 ▸ rxStep_pkt_esc hf hs⟩
    · have hb := notMarker_iff.2 ⟨h1, h3, h2⟩
      exact .inr (.inl ⟨rfl, hb, rxStep_pkt_data hf hs hb⟩)
  | inPacketEscaped =>
    refine .inr (.inr (.inr (.inr (.inr (.inr (.inr (.inr ?_)))))))
    cases hb : unescapeByte b with
    | some x => exact .inl ⟨x, rfl, rfl, rxStep_esc_valid hf hs hb⟩
    | none => exact .inr ⟨rfl, rfl, rxStep_esc_invalid hf hs hb⟩

end Sys2Proof.Machine
end

