-- ==== Sys2Proof/Laws/Deframer.lean ====
section
/-! SUPPORT. How the RX rows, `step(b)` and `Run(s)` hang together, and what a run of the deframer leaves alone. -/

namespace Sys2Proof.Machine

/-! The rows (R54, R70, R90). -/

/-- A row run in its own context applies its rule. -/
theorem runRx_next {s : State} (hf : s.rxFault = false) {ctx : DecoderState} (hs : s.rxState = ctx)
    (rule : State → State) : runRx ctx rule s = .next (rule s.clearOutputs) := by
  simp [runRx, hf, hs]

/-- A faulted deframer takes no step (R90). -/
theorem runRx_faulted {s : State} (hf : s.rxFault = true) (ctx : DecoderState) (rule : State → State) :
    runRx ctx rule s = .next s.clearOutputs := by
  simp [runRx, hf]

/-- A row's next state is its rule's, or nothing happened (R90). -/
theorem runRx_cases {s t : State} {ctx : DecoderState} {rule : State → State} (h : runRx ctx rule s = .next t) :
    (s.rxFault = true ∧ t = s.clearOutputs) ∨
      (s.rxFault = false ∧ s.rxState = ctx ∧ t = rule s.clearOutputs) := by
  cases hf : s.rxFault with
  | true => exact .inl ⟨rfl, by simpa [runRx, hf] using h.symm⟩
  | false =>
    by_cases hs : s.rxState = ctx
    · exact .inr ⟨rfl, hs, by simpa [runRx, hf, hs] using h.symm⟩
    · simp [runRx, hf, hs] at h

/-- The row the decoder reads in the state's own context, run by its meaning, is one step (R70). -/
theorem exec_classifyRx {s : State} (hf : s.rxFault = false) (b : Byte) :
    exec (classifyRx s.rxState b) s = .next (rxStep b s.clearOutputs) := by
  cases hs : s.rxState <;> simp only [classifyRx, rxStep, State.clearOutputs_rxFault, State.clearOutputs_rxState, hf, hs,
    Bool.false_eq_true, if_false]
    <;> split_ifs <;>
    simp [exec, execRxIdleStart, execRxIdleEnd, execRxIdleEsc, execRxIdleOther, execRxPktStart, execRxPktEnd,
      execRxPktEsc, execRxPktData, execRxEsc55, execRxEsc44, execRxEsc33, execRxEscInvalid, runRx, hf, hs]

/-! `Run` (R87). -/

@[simp] theorem feed_nil (s : State) : feed [] s = (s, []) := rfl

/-- A step that does not fault is followed by the run of the rest. -/
theorem feed_cons {s t : State} {b : Byte} (bs : List Byte) (h : rxStep b s.freshEvent = t) (hf : t.rxFault = false) :
    feed (b :: bs) s = ((feed bs t).1, { event := t.event, diag := t.diag } :: (feed bs t).2) := by
  simp [feed, h, hf]

/-- A step that faults, or is not taken, ends the run. -/
theorem feed_cons_faulted {s t : State} {b : Byte} (bs : List Byte) (h : rxStep b s.freshEvent = t)
    (hf : t.rxFault = true) : feed (b :: bs) s = (t, []) := by
  simp [feed, h, hf]

/-- What one step leaves alone: the framer, the parameters, the host's side; and it may only add to EVS. -/
theorem rxStep_frame (b : Byte) (s : State) :
    (rxStep b s).txState = s.txState ∧ (rxStep b s).txQ = s.txQ ∧ (rxStep b s).txHold = s.txHold ∧
      (rxStep b s).txs = s.txs ∧ (rxStep b s).params = s.params ∧ (rxStep b s).inputs = s.inputs ∧
      (rxStep b s).result = s.result ∧ ∃ es, (rxStep b s).evs = s.evs ++ es := by
  cases hf : s.rxFault with
  | true => rw [rxStep_faulted hf]; exact ⟨rfl, rfl, rfl, rfl, rfl, rfl, rfl, [], by simp⟩
  | false =>
    rcases rxStep_cases hf b with ⟨-, -, h⟩ | ⟨-, -, h⟩ | ⟨-, -, h⟩ | ⟨-, -, -, h⟩ | ⟨p, -, -, -, h⟩ |
      ⟨p, c, -, -, -, -, h⟩ | ⟨-, -, h⟩ | ⟨-, -, h⟩ | ⟨x, -, -, h⟩ | ⟨-, -, h⟩ <;> rw [h]
    · exact ⟨rfl, rfl, rfl, rfl, rfl, rfl, rfl, [], by simp⟩
    · exact ⟨rfl, rfl, rfl, rfl, rfl, rfl, rfl, [], by simp⟩
    · exact ⟨rfl, rfl, rfl, rfl, rfl, rfl, rfl, _, rfl⟩
    · exact ⟨rfl, rfl, rfl, rfl, rfl, rfl, rfl, [], by simp⟩
    · exact ⟨rfl, rfl, rfl, rfl, rfl, rfl, rfl, _, rfl⟩
    · exact ⟨rfl, rfl, rfl, rfl, rfl, rfl, rfl, _, rfl⟩
    · exact ⟨rfl, rfl, rfl, rfl, rfl, rfl, rfl, [], by simp⟩
    · cases hb : s.bufFull
      · rw [State.appendThen_room hb]; exact ⟨rfl, rfl, rfl, rfl, rfl, rfl, rfl, [], by simp⟩
      · rw [State.appendThen_full hb]; exact ⟨rfl, rfl, rfl, rfl, rfl, rfl, rfl, [], by simp⟩
    · cases hb : s.bufFull
      · rw [State.appendThen_room hb]; exact ⟨rfl, rfl, rfl, rfl, rfl, rfl, rfl, [], by simp⟩
      · rw [State.appendThen_full hb]; exact ⟨rfl, rfl, rfl, rfl, rfl, rfl, rfl, [], by simp⟩
    · exact ⟨rfl, rfl, rfl, rfl, rfl, rfl, rfl, _, rfl⟩

/-- A property of the state that each step keeps, the event output aside, is kept by a run. -/
theorem feed_induction {P : State → Prop} (hfresh : ∀ s, P s → P s.freshEvent)
    (hstep : ∀ b s, P s → P (rxStep b s)) (bs : List Byte) {s : State} (h : P s) : P (feed bs s).1 := by
  induction bs generalizing s with
  | nil => exact h
  | cons b bs ih =>
    have ht := hstep b _ (hfresh s h)
    cases hf : (rxStep b s.freshEvent).rxFault with
    | true => rw [feed_cons_faulted bs rfl hf]; exact ht
    | false => rw [feed_cons bs rfl hf]; exact ih ht

/-- A run of one sequence after another is the run of both, unless the first faulted (R87). -/
theorem feed_append (a b : List Byte) {s : State} (h : s.rxFault = false) :
    feed (a ++ b) s =
      if (feed a s).1.rxFault then feed a s
      else ((feed b (feed a s).1).1, (feed a s).2 ++ (feed b (feed a s).1).2) := by
  induction a generalizing s with
  | nil => simp [h]
  | cons x a ih =>
    cases hf : (rxStep x s.freshEvent).rxFault with
    | true => simp [feed_cons_faulted _ rfl hf, hf]
    | false =>
      simp only [List.cons_append, feed_cons _ rfl hf, ih hf]
      split <;> simp_all

/-- A faulted deframer takes no step of a run (R90). -/
theorem feed_faulted {s : State} (h : s.rxFault = true) (bs : List Byte) :
    (feed bs s).1.clearOutputs = s.clearOutputs ∧ (feed bs s).1.rxFault = true ∧ (feed bs s).2 = [] := by
  cases bs with
  | nil => exact ⟨rfl, h, rfl⟩
  | cons b bs =>
    have hf : s.freshEvent.rxFault = true := h
    rw [feed_cons_faulted bs (rxStep_faulted hf b) hf]
    exact ⟨rfl, h, rfl⟩

/-- A non-empty run does not see the event output it starts with (R18). -/
theorem feed_freshEvent {bs : List Byte} (s : State) (hb : bs ≠ []) : feed bs s.freshEvent = feed bs s := by
  cases bs with
  | nil => simp at hb
  | cons b bs => rfl

/-- A state whose event output is empty (R18). -/
theorem freshEvent_eq_self {s : State} (he : s.event = .none) (hd : s.diag = []) : s.freshEvent = s := by
  simp [State.freshEvent, ← he, ← hd]

/-- A step that raises nothing reports event None with no `diag`. -/
theorem feed_cons_silent {s t : State} {b : Byte} (bs : List Byte) (h : rxStep b s.freshEvent = t)
    (hf : t.rxFault = false) (he : t.event = .none) (hd : t.diag = []) :
    feed (b :: bs) s = ((feed bs t).1, { event := .none, diag := [] } :: (feed bs t).2) := by
  rw [feed_cons bs h hf, he, hd]

/-- In `InPacket`, with room for them, escaped bytes go silently into the buffer as they were before escaping
(R80 to R85, R105). -/
theorem feed_escSeq (xs : List Byte) {s : State} (he : s.event = .none) (hd : s.diag = []) (hf : s.rxFault = false)
    (hs : s.rxState = .inPacket) (hr : s.params.bufCapacity.allows (s.rxBuf.length + xs.length) = true)
    (bs : List Byte) :
    feed (escSeq xs ++ bs) s =
      ((feed bs { s with rxBuf := s.rxBuf ++ xs }).1,
        List.replicate (escSeq xs).length { event := .none, diag := [] } ++
          (feed bs { s with rxBuf := s.rxBuf ++ xs }).2) := by
  induction xs generalizing s with
  | nil => simp
  | cons x xs ih =>
    have hroom : s.bufFull = false := State.not_full_of_allows (Limit.allows_of_le hr (by simp))
    have key := @ih { s with rxBuf := s.rxBuf ++ [x] } he hd hf hs
      (by simpa [Nat.add_assoc, Nat.add_comm 1] using hr)
    have hfresh := freshEvent_eq_self he hd
    rcases esc_cases x with ⟨c, -, hx, hc⟩ | ⟨-, hx, hm⟩
    · have h1 : rxStep escMarker s.freshEvent = { s with rxState := .inPacketEscaped } := by
        rw [hfresh]; exact rxStep_pkt_esc hf hs
      have h2 : rxStep c (State.freshEvent { s with rxState := .inPacketEscaped }) =
          { s with rxBuf := s.rxBuf ++ [x] } := by
        rw [freshEvent_eq_self (by exact he) (by exact hd), rxStep_esc_valid (by exact hf) rfl hc,
          State.appendThen_room (by exact hroom), ← hs]
      rw [escSeq_cons, hx]
      simp only [List.cons_append, List.nil_append]
      rw [feed_cons_silent _ h1 (by exact hf) (by exact he) (by exact hd),
        feed_cons_silent _ h2 (by exact hf) (by exact he) (by exact hd), key]
      simp [List.replicate_succ]
    · have h1 : rxStep x s.freshEvent = { s with rxBuf := s.rxBuf ++ [x] } := by
        rw [hfresh, rxStep_pkt_data hf hs hm, rulePktData, State.appendThen_room hroom, ← hs]
      rw [escSeq_cons, hx]
      simp only [List.cons_append, List.nil_append]
      rw [feed_cons_silent _ h1 (by exact hf) (by exact he) (by exact hd), key]
      simp [List.replicate_succ]

end Sys2Proof.Machine
end

