-- ==== Sys2Proof/Laws/Framer.lean ====
section
/-! SUPPORT. What the framer's operations can do. -/

namespace Sys2Proof.Machine

/-- What a TX row by itself does (R101 to R109): its bytes are the result, and nothing else changes. -/
theorem runTx_eq (bs : List Byte) (s : State) : runTx bs s = .next { s.clearOutputs with result := .bytes bs } := rfl

/-- Everything a `tx_step` can do (R112). -/
theorem txStep_cases {s t : State} (h : txStep s = .next t) :
    (s.txState = .txIdle ∧ t = s) ∨
    (s.txState = .txStart ∧ t = { s with txs := s.txs ++ [startMarker], txState := .txBody }) ∨
    (∃ x q c, s.txState = .txBody ∧ s.txQ = x :: q ∧ escCode x = some c ∧
      t = { s with txs := s.txs ++ [escMarker], txQ := q, txHold := c, txState := .txEsc2 }) ∨
    (∃ x q, s.txState = .txBody ∧ s.txQ = x :: q ∧ escCode x = none ∧
      t = { s with txs := s.txs ++ [x], txQ := q, txState := afterSourceByte q }) ∨
    (s.txState = .txEsc2 ∧ t = { s with txs := s.txs ++ [s.txHold], txState := afterSourceByte s.txQ }) ∨
    (s.txState = .txEnd ∧ t = { s with txs := s.txs ++ [endMarker], txState := .txIdle }) := by
  unfold txStep at h
  split at h
  · exact .inl ⟨‹_›, by simpa using h.symm⟩
  · exact .inr (.inl ⟨‹_›, by simpa using h.symm⟩)
  · refine .inr (.inr ?_)
    split at h
    · simp at h
    · split at h
      · exact .inl ⟨_, _, _, ‹_›, ‹_›, ‹_›, by simpa using h.symm⟩
      · exact .inr (.inl ⟨_, _, ‹_›, ‹_›, ‹_›, by simpa using h.symm⟩)
  · exact .inr (.inr (.inr (.inr (.inl ⟨‹_›, by simpa using h.symm⟩))))
  · exact .inr (.inr (.inr (.inr (.inr ⟨‹_›, by simpa using h.symm⟩))))

/-- A `tx_step` has a next state unless R112 takes the head of an empty `tx_q`. -/
theorem txStep_total (s : State) :
    (∃ t, txStep s = .next t) ∨ (s.txState = .txBody ∧ s.txQ = [] ∧ txStep s = .fault .txQueueEmpty) := by
  cases hs : s.txState
  case txBody =>
    cases hq : s.txQ with
    | nil => exact .inr ⟨rfl, rfl, by simp [txStep, hs, hq]⟩
    | cons x q => cases hc : escCode x <;> exact .inl ⟨_, by simp only [txStep, hs, hq, hc]; rfl⟩
  all_goals exact .inl ⟨_, by simp only [txStep, hs]; rfl⟩

/-- The two ways a frame command starts (R149, R111). -/
theorem State.startFrame_function {s : State} (h : s.params.framer = .function) (p : List Byte) (c : Byte) :
    s.startFrame p c =
      { s with txs := s.txs ++ escapeAndFrame p c, result := .bytes (escapeAndFrame p c) } := by
  simp [State.startFrame, h, State.emit, State.withResult]

theorem State.startFrame_byteSerial {s : State} (h : s.params.framer = .byteSerial) (p : List Byte) (c : Byte) :
    s.startFrame p c = { s with txQ := p ++ [c], txState := .txStart, result := .txAccepted } := by
  simp [State.startFrame, h, State.withResult]

/-- At the function level the framer is never busy (R21). -/
theorem State.framerBusy_function {s : State} (h : s.params.framer = .function) : s.framerBusy = false := by
  simp [State.framerBusy, h]

theorem State.framerBusy_idle {s : State} (h : s.txState = .txIdle) : s.framerBusy = false := by
  simp [State.framerBusy, h]

theorem State.framerBusy_iff {s : State} :
    s.framerBusy = true ↔ s.params.framer = .byteSerial ∧ s.txState ≠ .txIdle := by
  simp [State.framerBusy]

end Sys2Proof.Machine
end

