-- ==== Sys2Proof/Laws/Memory.lean ====
section
/-! SUPPORT. The laws of the accumulator buffer: reading what was appended, and the canonical form of R29 (I-c) kept by
every operation that writes it. -/

namespace Sys2Proof.Machine

/-- An appended byte is read back at its index (R37). -/
theorem memRead_appended (m : Memory) (b : Byte) : memRead (memWrite m m.length [b]) m.length 1 = some [b] := by
  simp [memWrite_end, memRead]

/-- Every index below the length reads as before an append (R37). -/
theorem memRead_memWrite_other (m : Memory) (b : Byte) {addr n : Nat} (h : addr + n ≤ m.length) :
    memRead (memWrite m m.length [b]) addr n = memRead m addr n := by
  have h1 : addr + n ≤ m.length + 1 := by omega
  have h2 : addr ≤ m.length := by omega
  have h3 : n ≤ m.length - addr := by omega
  simp [memWrite_end, memRead, h, h1, List.drop_append_of_le_length h2, List.take_append_of_le_length, h3]

/-- An index at or above the length holds no value (R13). -/
theorem memRead_beyond (m : Memory) {addr n : Nat} (h : m.length < addr + n) : memRead m addr n = none := by
  simp [memRead, Nat.not_le.2 h]

theorem Memory.wf_nil (cap : Limit) : Memory.wf cap [] = true := by
  cases cap <;> simp [Memory.wf, Limit.allows]

/-- `BufAppend`, full buffer or not, keeps the form (R82). -/
theorem State.appendThen_wf {s : State} (h : Memory.wf s.params.bufCapacity s.rxBuf = true) (b : Byte)
    (next : DecoderState) : Memory.wf s.params.bufCapacity (s.appendThen b next).rxBuf = true := by
  cases hb : s.bufFull with
  | true => rw [State.appendThen_full hb]; exact h
  | false =>
    have hn : s.params.bufCapacity ≠ .atMost s.rxBuf.length := fun hc => by simp [(State.bufFull_iff s).2 hc] at hb
    rw [State.appendThen_room hb]
    cases hc : s.params.bufCapacity with
    | unbounded => rfl
    | atMost n =>
      simp only [hc, Memory.wf, Limit.allows, decide_eq_true_eq, ne_eq, Limit.atMost.injEq] at h hn
      simp only [Memory.wf, Limit.allows, List.length_append, List.length_singleton, decide_eq_true_eq]
      omega

/-- `BufClear` keeps the form. -/
theorem State.bufClear_wf (s : State) : Memory.wf s.bufClear.params.bufCapacity s.bufClear.rxBuf = true :=
  Memory.wf_nil _

/-- Taking an event keeps the form. -/
theorem State.takeEvent_wf {s : State} (h : Memory.wf s.params.bufCapacity s.rxBuf = true) (e : Event)
    (d : List Byte) : Memory.wf s.params.bufCapacity (s.takeEvent e d).rxBuf = true := by
  cases e with
  | none => exact h
  | packetComplete p => exact Memory.wf_nil _
  | badChecksum => exact Memory.wf_nil _
  | invalidEscape => exact h
  | resync => exact Memory.wf_nil _

/-- Resetting the block keeps the form. -/
theorem State.resetBlock_wf (s : State) : Memory.wf s.resetBlock.params.bufCapacity s.resetBlock.rxBuf = true :=
  Memory.wf_nil _

/-- The buffer after reset has the form. -/
theorem State.reset_wf : Memory.wf State.reset.params.bufCapacity State.reset.rxBuf = true := Memory.wf_nil _

end Sys2Proof.Machine
end

