-- ==== Sys2Proof/Laws/PerInstr.lean ====
section
/-! SUPPORT. One statement about each instruction as syntax: what its format says of the way the host presents it
(30_encoding.md R60, R63). -/

namespace Sys2Proof.Laws.Formats

/-- An RX1 row is one byte on RXS in Idle or InPacket, an RX2 row one byte on RXS in InPacketEscaped, a TX1 row one byte
on SRC, a TX0 row one of the two frame positions with no byte; every other port is a command's. -/
def Statement (i : Instr) : Prop :=
  (i.format = .rx1 ↔ (encode i).port = .rxs ∧ (i.context = some .idle ∨ i.context = some .inPacket)) ∧
  (i.format = .rx2 ↔ (encode i).port = .rxs ∧ i.context = some .inPacketEscaped) ∧
  (i.format = .tx1 ↔ (encode i).port = .src) ∧
  (i.format = .tx0 ↔ (encode i).port = .frameStart ∨ (encode i).port = .frameEnd) ∧
  (i.format = .rx1 ∨ i.format = .rx2 ∨ i.format = .tx1 → (encode i).data.length = 1) ∧
  (i.format = .tx0 → (encode i).data = []) ∧
  (i.context = none ↔ i.format = .tx1 ∨ i.format = .tx0 ∨ i.format = .cmd)

theorem rxIdleStart : Statement .rxIdleStart := by simp [Statement, Instr.format, Instr.context, encode]

theorem rxIdleEnd : Statement .rxIdleEnd := by simp [Statement, Instr.format, Instr.context, encode]

theorem rxIdleEsc : Statement .rxIdleEsc := by simp [Statement, Instr.format, Instr.context, encode]

theorem rxIdleOther (b : Byte) : Statement (.rxIdleOther b) := by simp [Statement, Instr.format, Instr.context, encode]

theorem rxPktStart : Statement .rxPktStart := by simp [Statement, Instr.format, Instr.context, encode]

theorem rxPktEnd : Statement .rxPktEnd := by simp [Statement, Instr.format, Instr.context, encode]

theorem rxPktEsc : Statement .rxPktEsc := by simp [Statement, Instr.format, Instr.context, encode]

theorem rxPktData (b : Byte) : Statement (.rxPktData b) := by simp [Statement, Instr.format, Instr.context, encode]

theorem rxEsc55 : Statement .rxEsc55 := by simp [Statement, Instr.format, Instr.context, encode]

theorem rxEsc44 : Statement .rxEsc44 := by simp [Statement, Instr.format, Instr.context, encode]

theorem rxEsc33 : Statement .rxEsc33 := by simp [Statement, Instr.format, Instr.context, encode]

theorem rxEscInvalid (b : Byte) : Statement (.rxEscInvalid b) := by simp [Statement, Instr.format, Instr.context, encode]

theorem txEscAA : Statement .txEscAA := by simp [Statement, Instr.format, Instr.context, encode]

theorem txEscBB : Statement .txEscBB := by simp [Statement, Instr.format, Instr.context, encode]

theorem txEscCC : Statement .txEscCC := by simp [Statement, Instr.format, Instr.context, encode]

theorem txLit (x : Byte) : Statement (.txLit x) := by simp [Statement, Instr.format, Instr.context, encode]

theorem txStart : Statement .txStart := by simp [Statement, Instr.format, Instr.context, encode]

theorem txEnd : Statement .txEnd := by simp [Statement, Instr.format, Instr.context, encode]

theorem cmdReset : Statement .cmdReset := by simp [Statement, Instr.format, Instr.context, encode]

theorem cmdRxStep (b : Byte) : Statement (.cmdRxStep b) := by simp [Statement, Instr.format, Instr.context, encode]

theorem cmdRxFeed (s : List Byte) : Statement (.cmdRxFeed s) := by simp [Statement, Instr.format, Instr.context, encode]

theorem cmdTxFrame (p : List Byte) (c : Byte) : Statement (.cmdTxFrame p c) := by simp [Statement, Instr.format, Instr.context, encode]

theorem cmdTxEncode (p : List Byte) : Statement (.cmdTxEncode p) := by simp [Statement, Instr.format, Instr.context, encode]

theorem cmdRdErrcnt : Statement .cmdRdErrcnt := by simp [Statement, Instr.format, Instr.context, encode]

theorem cmdRdStatus : Statement .cmdRdStatus := by simp [Statement, Instr.format, Instr.context, encode]

theorem cmdCsum (s : List Byte) : Statement (.cmdCsum s) := by simp [Statement, Instr.format, Instr.context, encode]

theorem cmdUnescape (b : Byte) : Statement (.cmdUnescape b) := by simp [Statement, Instr.format, Instr.context, encode]

theorem cmdReframe (s : List Byte) : Statement (.cmdReframe s) := by simp [Statement, Instr.format, Instr.context, encode]

end Sys2Proof.Laws.Formats
end

