-- ==== Sys2Proof/Laws/Step.lean ====
section
/-! SUPPORT. Everything one step of the machine can do: an invariant of the steps follows from the cases below without
unfolding an instruction. -/

namespace Sys2Proof.Machine

/-! The commands as equations. -/

theorem exec_cmdRxStep (b : Byte) (s : State) :
    exec (.cmdRxStep b) s =
      .next ((rxStep b s.clearOutputs).withResult
        (.reports (if (rxStep b s.clearOutputs).rxFault then []
          else [{ event := (rxStep b s.clearOutputs).event, diag := (rxStep b s.clearOutputs).diag }]))) := rfl

theorem exec_cmdRxFeed (bs : List Byte) (s : State) :
    exec (.cmdRxFeed bs) s =
      .next ((feed bs s.clearOutputs).1.withResult (.reports (feed bs s.clearOutputs).2)) := rfl

/-- The row a byte selects, faulted deframer or not (R54, R70, R90). -/
theorem exec_row (s : State) (b : Byte) : exec (classifyRx s.rxState b) s = .next (rxStep b s.clearOutputs) := by
  cases hf : s.rxFault with
  | false => exact exec_classifyRx hf b
  | true =>
    rw [rxStep_faulted (by simpa)]
    cases hs : s.rxState <;> simp only [classifyRx] <;> split_ifs <;> exact runRx_faulted hf _ _

/-- The row a source byte selects (R54, R101 to R104). -/
theorem exec_classifyTx (s : State) (x : Byte) : exec (classifyTx x) s = runTx (esc x) s := by
  unfold classifyTx
  split_ifs with h1 h2 h3
  · subst h1; rfl
  · subst h2; rfl
  · subst h3; rfl
  · simp [exec, execTxLit, esc, escCode, h1, h2, h3]

/-- What a TX row can do (R101 to R109). -/
theorem txRow_cases {s t : State} {i : Instr} (hi : i.format = .tx1 ∨ i.format = .tx0) (h : exec i s = .next t) :
    ∃ bs, t = { s.clearOutputs with result := .bytes bs } := by
  cases i <;> simp only [Instr.format, reduceCtorEq, or_self] at hi <;> injection h with h <;> exact ⟨_, h.symm⟩

/-- What a frame command can do (R149, R111, R113), the checksum accumulator aside: turned away, the whole frame at the
function level, or the frame taken by the byte-serial framer. -/
theorem frameCommand_cases {s t : State} {i : Instr} (hi : (∃ p c, i = .cmdTxFrame p c) ∨ ∃ p, i = .cmdTxEncode p)
    (h : exec i s = .next t) :
    (s.framerBusy = true ∧ t = s.clearOutputs.withResult .txBusy) ∨
    (s.params.framer = .function ∧ ∃ r p c acc,
      t = { s.clearOutputs with result := r, txs := s.txs ++ escapeAndFrame p c, csumAcc := acc }) ∨
    (s.params.framer = .byteSerial ∧ s.txState = .txIdle ∧ ∃ p c acc,
      t = { s.clearOutputs with result := .txAccepted, txQ := p ++ [c], txState := .txStart, csumAcc := acc }) := by
  cases hb : s.framerBusy with
  | true =>
    refine .inl ⟨rfl, ?_⟩
    rcases hi with ⟨p, c, rfl⟩ | ⟨p, rfl⟩ <;>
      simpa [exec, execCmdTxFrame, execCmdTxEncode, hb] using h.symm
  | false =>
    right
    cases hl : s.params.framer with
    | function =>
      refine .inl ⟨rfl, ?_⟩
      rcases hi with ⟨p, c, rfl⟩ | ⟨p, rfl⟩ <;>
        simp only [exec, execCmdTxFrame, execCmdTxEncode, hb, Bool.false_eq_true, if_false, State.runChecksum_eq] at h <;>
        rw [State.startFrame_function (by exact hl)] at h <;> injection h with h
      · exact ⟨_, p, c, s.csumAcc, h.symm⟩
      · exact ⟨_, p, checksum p, checksum p, h.symm⟩
    | byteSerial =>
      refine .inr ⟨rfl, by simpa [State.framerBusy, hl] using hb, ?_⟩
      rcases hi with ⟨p, c, rfl⟩ | ⟨p, rfl⟩ <;>
        simp only [exec, execCmdTxFrame, execCmdTxEncode, hb, Bool.false_eq_true, if_false, State.runChecksum_eq] at h <;>
        rw [State.startFrame_byteSerial (by exact hl)] at h <;> injection h with h
      · exact ⟨p, c, s.csumAcc, h.symm⟩
      · exact ⟨p, checksum p, checksum p, h.symm⟩

/-- Everything an instruction the decoder reads can do. -/
theorem exec_decoded_cases {s t : State} {tr : Transaction} {i : Instr} (hd : decode s.rxState tr = .ok i)
    (h : exec i s = .next t) :
    (∃ b, t = rxStep b s.clearOutputs) ∨
    (∃ b r, t = (rxStep b s.clearOutputs).withResult r) ∨
    (∃ bs r, t = (feed bs s.clearOutputs).1.withResult r) ∨
    t = s.resetBlock ∨
    (∃ r acc, t = { s.clearOutputs with result := r, csumAcc := acc }) ∨
    (s.params.framer = .function ∧ ∃ r p c acc,
      t = { s.clearOutputs with result := r, txs := s.txs ++ escapeAndFrame p c, csumAcc := acc }) ∨
    (s.params.framer = .byteSerial ∧ s.txState = .txIdle ∧ ∃ p c acc,
      t = { s.clearOutputs with result := .txAccepted, txQ := p ++ [c], txState := .txStart, csumAcc := acc }) := by
  have tx : ∀ {i : Instr}, i.format = .tx1 ∨ i.format = .tx0 → exec i s = .next t →
      ∃ r acc, t = { s.clearOutputs with result := r, csumAcc := acc } := by
    intro i hi h
    obtain ⟨bs, rfl⟩ := txRow_cases hi h
    exact ⟨.bytes bs, s.csumAcc, rfl⟩
  have frame : ∀ {i : Instr}, ((∃ p c, i = .cmdTxFrame p c) ∨ ∃ p, i = .cmdTxEncode p) → exec i s = .next t →
      (∃ r acc, t = { s.clearOutputs with result := r, csumAcc := acc }) ∨
      (s.params.framer = .function ∧ ∃ r p c acc,
        t = { s.clearOutputs with result := r, txs := s.txs ++ escapeAndFrame p c, csumAcc := acc }) ∨
      (s.params.framer = .byteSerial ∧ s.txState = .txIdle ∧ ∃ p c acc,
        t = { s.clearOutputs with result := .txAccepted, txQ := p ++ [c], txState := .txStart, csumAcc := acc }) := by
    intro i hi h
    rcases frameCommand_cases hi h with ⟨-, rfl⟩ | h
    · exact .inl ⟨.txBusy, s.csumAcc, rfl⟩
    · exact .inr h
  obtain ⟨port, data⟩ := tr
  cases port <;> simp only [decode] at hd
  case rxs =>
    rcases data with _ | ⟨b, _ | _⟩ <;> simp only [oneByte, Except.ok.injEq, reduceCtorEq] at hd
    subst hd
    rw [exec_row] at h
    injection h with h
    exact .inl ⟨b, h.symm⟩
  case src =>
    rcases data with _ | ⟨b, _ | _⟩ <;> simp only [oneByte, Except.ok.injEq, reduceCtorEq] at hd
    subst hd
    refine .inr (.inr (.inr (.inr (.inl (tx ?_ h)))))
    unfold classifyTx
    split_ifs <;> exact .inl rfl
  case rxStep =>
    rcases data with _ | ⟨b, _ | _⟩ <;> simp only [oneByte, Except.ok.injEq, reduceCtorEq] at hd
    subst hd
    rw [exec_cmdRxStep] at h
    injection h with h
    exact .inr (.inl ⟨b, _, h.symm⟩)
  case rxFeed =>
    simp only [Except.ok.injEq] at hd
    subst hd
    rw [exec_cmdRxFeed] at h
    injection h with h
    exact .inr (.inr (.inl ⟨_, _, h.symm⟩))
  case txFrame =>
    unfold payloadAndChecksum at hd
    split at hd <;> simp only [Except.ok.injEq, reduceCtorEq] at hd
    subst hd
    exact .inr (.inr (.inr (.inr (frame (.inl ⟨_, _, rfl⟩) h))))
  case txEncode =>
    simp only [Except.ok.injEq] at hd
    subst hd
    exact .inr (.inr (.inr (.inr (frame (.inr ⟨_, rfl⟩) h))))
  case reset =>
    cases data <;> simp only [noOperand, Except.ok.injEq, reduceCtorEq] at hd
    subst hd
    injection h with h
    exact .inr (.inr (.inr (.inl h.symm)))
  case frameStart =>
    cases data <;> simp only [noOperand, Except.ok.injEq, reduceCtorEq] at hd
    subst hd
    exact .inr (.inr (.inr (.inr (.inl (tx (.inr rfl) h)))))
  case frameEnd =>
    cases data <;> simp only [noOperand, Except.ok.injEq, reduceCtorEq] at hd
    subst hd
    exact .inr (.inr (.inr (.inr (.inl (tx (.inr rfl) h)))))
  case csum =>
    simp only [Except.ok.injEq] at hd
    subst hd
    simp only [exec, execCmdCsum, State.runChecksum_eq] at h
    injection h with h
    exact .inr (.inr (.inr (.inr (.inl ⟨_, _, by simpa [State.withResult] using h.symm⟩))))
  case unescape =>
    rcases data with _ | ⟨b, _ | _⟩ <;> simp only [oneByte, Except.ok.injEq, reduceCtorEq] at hd
    subst hd
    injection h with h
    exact .inr (.inr (.inr (.inr (.inl ⟨_, s.csumAcc, by simpa [State.withResult] using h.symm⟩))))
  case reframe =>
    simp only [Except.ok.injEq] at hd
    subst hd
    injection h with h
    exact .inr (.inr (.inr (.inr (.inl ⟨_, s.csumAcc, by simpa [State.withResult] using h.symm⟩))))
  all_goals
    cases data <;> simp only [noOperand, Except.ok.injEq, reduceCtorEq] at hd
    subst hd
    injection h with h
    exact .inr (.inr (.inr (.inr (.inl ⟨_, s.csumAcc, by simpa [State.withResult] using h.symm⟩))))

/-- Everything a step can do (assumption 2): a framer move, or an instruction, on the state without the move served. -/
theorem step_cases {s t : State} (h : step s = .next t) :
    ∃ rest, (txStep { s with inputs := rest } = .next t) ∨
      ∃ tr i, decode s.rxState tr = .ok i ∧ exec i { s with inputs := rest } = .next t := by
  unfold step State.nextMove at h
  cases hi : s.inputs with
  | nil =>
    refine ⟨[], .inl ?_⟩
    simp only [hi] at h
    rw [← hi]
    exact h
  | cons m rest =>
    refine ⟨rest, ?_⟩
    cases m with
    | txStep => exact .inl (by simpa only [hi] using h)
    | present tr =>
      simp only [hi] at h
      cases hd : decode s.rxState tr with
      | ok i => exact .inr ⟨tr, i, hd, by simpa only [hd] using h⟩
      | error e => simp [hd] at h

end Sys2Proof.Machine
end

