-- ==== Sys2Proof/Tests/Slice0.lean ====
section
/-! SUPPORT. Tests: ill-formed terms, the decoding of every instruction from its byte written out, one step of each
instruction with the expected value taken from spec/95_test_vectors.md, and for every obligation with hypotheses a
concrete case that meets them. -/

namespace Sys2Proof.Tests

open Sys2Proof.Machine

/-! Small states. -/

/-- In `InPacket` with the given buffer and counter. -/
def inPacket (buf : List Byte) (n : Nat) : State :=
  { State.reset with rxState := .inPacket, rxBuf := buf, rxErrcnt := n }

/-- In `InPacketEscaped` with the given buffer. -/
def escaped (buf : List Byte) : State := { State.reset with rxState := .inPacketEscaped, rxBuf := buf }

/-- `BUF_CAPACITY = 2` with `10 20` in the buffer: full. -/
def fullIn (ctx : DecoderState) : State :=
  { State.reset with
    rxState := ctx, rxBuf := [0x10#8, 0x20#8],
    params := { bufCapacity := .atMost 2, errcntMax := .unbounded, framer := .function } }

/-- A faulted deframer. -/
def faulted : State := { State.reset with rxFault := true }

/-- The byte-serial framer in the given state with the given source bytes left. -/
def serial (ts : TxState) (q : List Byte) : State :=
  { State.reset with
    txState := ts, txQ := q,
    params := { bufCapacity := .unbounded, errcntMax := .unbounded, framer := .byteSerial } }

/-- One field of the next state. -/
def after {α : Type} (o : Host.Outcome State Fault Refusal) (f : State → α) : Option α := (nextState? o).map f

/-! WellFormed refuses an "any other" row that carries a value of an exact row (R63). -/

theorem test_illformed_idleOther_AA : (Instr.rxIdleOther 0xAA#8).wellFormed = false := by decide
theorem test_illformed_idleOther_BB : (Instr.rxIdleOther 0xBB#8).wellFormed = false := by decide
theorem test_illformed_idleOther_CC : (Instr.rxIdleOther 0xCC#8).wellFormed = false := by decide
theorem test_illformed_pktData_AA : (Instr.rxPktData 0xAA#8).wellFormed = false := by decide
theorem test_illformed_pktData_BB : (Instr.rxPktData 0xBB#8).wellFormed = false := by decide
theorem test_illformed_pktData_CC : (Instr.rxPktData 0xCC#8).wellFormed = false := by decide
theorem test_illformed_escInvalid_55 : (Instr.rxEscInvalid 0x55#8).wellFormed = false := by decide
theorem test_illformed_escInvalid_44 : (Instr.rxEscInvalid 0x44#8).wellFormed = false := by decide
theorem test_illformed_escInvalid_33 : (Instr.rxEscInvalid 0x33#8).wellFormed = false := by decide
theorem test_illformed_lit_AA : (Instr.txLit 0xAA#8).wellFormed = false := by decide
theorem test_illformed_lit_BB : (Instr.txLit 0xBB#8).wellFormed = false := by decide
theorem test_illformed_lit_CC : (Instr.txLit 0xCC#8).wellFormed = false := by decide

/-! Decoding, each byte written out bit by bit from the match field of opcode_table.json (R54, R63). -/

theorem test_decode_rxIdle :
    decode .idle { port := .rxs, data := [0b10101010#8] } = .ok .rxIdleStart ∧
    decode .idle { port := .rxs, data := [0b11001100#8] } = .ok .rxIdleEnd ∧
    decode .idle { port := .rxs, data := [0b10111011#8] } = .ok .rxIdleEsc ∧
    decode .idle { port := .rxs, data := [0b00000000#8] } = .ok (.rxIdleOther 0x00#8) := by decide

theorem test_decode_rxPkt :
    decode .inPacket { port := .rxs, data := [0b10101010#8] } = .ok .rxPktStart ∧
    decode .inPacket { port := .rxs, data := [0b11001100#8] } = .ok .rxPktEnd ∧
    decode .inPacket { port := .rxs, data := [0b10111011#8] } = .ok .rxPktEsc ∧
    decode .inPacket { port := .rxs, data := [0b01010101#8] } = .ok (.rxPktData 0x55#8) := by decide

theorem test_decode_rxEsc :
    decode .inPacketEscaped { port := .rxs, data := [0b01010101#8] } = .ok .rxEsc55 ∧
    decode .inPacketEscaped { port := .rxs, data := [0b01000100#8] } = .ok .rxEsc44 ∧
    decode .inPacketEscaped { port := .rxs, data := [0b00110011#8] } = .ok .rxEsc33 ∧
    decode .inPacketEscaped { port := .rxs, data := [0b10111011#8] } = .ok (.rxEscInvalid 0xBB#8) := by decide

theorem test_decode_tx :
    decode .idle { port := .src, data := [0b10101010#8] } = .ok .txEscAA ∧
    decode .idle { port := .src, data := [0b10111011#8] } = .ok .txEscBB ∧
    decode .idle { port := .src, data := [0b11001100#8] } = .ok .txEscCC ∧
    decode .idle { port := .src, data := [0b00110011#8] } = .ok (.txLit 0x33#8) ∧
    decode .idle { port := .frameStart, data := [] } = .ok .txStart ∧
    decode .idle { port := .frameEnd, data := [] } = .ok .txEnd := by decide

theorem test_decode_commands :
    decode .idle { port := .reset, data := [] } = .ok .cmdReset ∧
    decode .inPacket { port := .rxStep, data := [0xAA#8] } = .ok (.cmdRxStep 0xAA#8) ∧
    decode .idle { port := .rxFeed, data := [0xAA#8, 0xCC#8] } = .ok (.cmdRxFeed [0xAA#8, 0xCC#8]) ∧
    decode .idle { port := .txFrame, data := [0x05#8, 0x06#8] } = .ok (.cmdTxFrame [0x05#8] 0x06#8) ∧
    decode .idle { port := .txEncode, data := [0x05#8] } = .ok (.cmdTxEncode [0x05#8]) ∧
    decode .idle { port := .rdErrcnt, data := [] } = .ok .cmdRdErrcnt ∧
    decode .idle { port := .rdStatus, data := [] } = .ok .cmdRdStatus ∧
    decode .idle { port := .csum, data := [0x10#8] } = .ok (.cmdCsum [0x10#8]) ∧
    decode .idle { port := .unescape, data := [0x55#8] } = .ok (.cmdUnescape 0x55#8) ∧
    decode .idle { port := .reframe, data := [] } = .ok (.cmdReframe []) := by decide

theorem test_decode_rejects :
    decode .idle { port := .rxs, data := [] } = .error (.missingOperand .rxs) ∧
    decode .idle { port := .src, data := [0x00#8, 0x01#8] } = .error (.extraOperand .src) ∧
    decode .idle { port := .reset, data := [0x00#8] } = .error (.extraOperand .reset) ∧
    decode .idle { port := .txFrame, data := [] } = .error (.missingOperand .txFrame) := by decide

/-- The table rows have masks and matches that select one row a context: here the words of the host's interface. -/
theorem test_decodeTableWord :
    decodeTableWord 8 0xAA = some .rxIdleStart ∧ decodeTableWord 8 0x55 = some .rxEsc55 ∧
    decodeTableWord 8 0x00 = some (.rxIdleOther 0x00#8) := by decide

theorem test_withFetchWord_runs :
    after (step (State.reset.withFetchWord 8 0xAA)) (·.rxState) = some .inPacket ∧
    after (step (State.reset.withFetchWord 8 0x55)) (·.rxBuf) = some [0xAA#8] := by decide

/-! RX rows: spec/95 table 2.3, by its row number. -/

theorem test_rxIdleStart_row2 :
    after (exec .rxIdleStart { State.reset with rxErrcnt := 3 }) (fun t => (t.rxState, t.rxErrcnt)) =
      some (.inPacket, 3) := by decide

theorem test_rxIdleEnd_row3 : exec .rxIdleEnd State.reset = .next State.reset := rfl

theorem test_rxIdleEsc_row4 : exec .rxIdleEsc State.reset = .next State.reset := rfl

theorem test_rxIdleOther_row5 : exec (.rxIdleOther 0x55#8) State.reset = .next State.reset := rfl

theorem test_rxPktStart_row9 :
    after (exec .rxPktStart (inPacket [0x01#8, 0x02#8] 5))
      (fun t => (t.rxState, t.rxBuf, t.rxErrcnt, t.event, t.diag)) =
      some (.inPacket, [], 5, .resync, [0x01#8, 0x02#8]) := by decide

theorem test_rxPktEnd_row11 :
    after (exec .rxPktEnd (inPacket [0x10#8, 0x20#8, 0x30#8] 4))
      (fun t => (t.rxState, t.rxBuf, t.rxErrcnt, t.event)) =
      some (.idle, [], 0, .packetComplete [0x10#8, 0x20#8]) := by decide

theorem test_rxPktEnd_row14 :
    after (exec .rxPktEnd (inPacket [0x05#8] 2)) (fun t => (t.rxState, t.rxErrcnt, t.event, t.diag)) =
      some (.idle, 3, .badChecksum, [0x05#8]) := by decide

theorem test_rxPktEsc_row17 :
    after (exec .rxPktEsc (inPacket [0x01#8] 0)) (fun t => (t.rxState, t.rxEsc, t.rxBuf)) =
      some (.inPacketEscaped, true, [0x01#8]) := by decide

theorem test_rxPktData_row19 :
    after (exec (.rxPktData 0x55#8) (inPacket [0x01#8] 0)) (·.rxBuf) = some [0x01#8, 0x55#8] := by decide

theorem test_rxPktData_row30 :
    after (exec (.rxPktData 0x30#8) (fullIn .inPacket)) (fun t => (t.rxFault, t.rxBuf, t.event)) =
      some (true, [0x10#8, 0x20#8], .none) := by decide

theorem test_rxEsc55_row21 :
    after (exec .rxEsc55 (escaped [0x01#8])) (fun t => (t.rxState, t.rxBuf)) =
      some (.inPacket, [0x01#8, 0xAA#8]) := by decide

theorem test_rxEsc55_row31 :
    after (exec .rxEsc55 (fullIn .inPacketEscaped)) (fun t => (t.rxFault, t.rxState)) =
      some (true, .inPacketEscaped) := by decide

theorem test_rxEsc44_row22 :
    after (exec .rxEsc44 (escaped [0x01#8])) (·.rxBuf) = some [0x01#8, 0xBB#8] := by decide

theorem test_rxEsc33_row23 :
    after (exec .rxEsc33 (escaped [0x01#8])) (·.rxBuf) = some [0x01#8, 0xCC#8] := by decide

theorem test_rxEscInvalid_row25 :
    after (exec (.rxEscInvalid 0xAA#8) (escaped [0x01#8]))
      (fun t => (t.rxState, t.rxBuf, t.rxErrcnt, t.event, t.diag)) =
      some (.inPacket, [0x01#8], 1, .invalidEscape, [0xAA#8]) := by decide

theorem test_rxEscInvalid_row32 :
    after (exec (.rxEscInvalid 0x99#8) (fullIn .inPacketEscaped)) (fun t => (t.rxFault, t.rxErrcnt)) =
      some (false, 1) := by decide

/-! TX rows: spec/95 table 2.2. -/

theorem test_txEscAA : after (exec .txEscAA State.reset) (·.result) = some (.bytes [0xBB#8, 0x55#8]) := by decide
theorem test_txEscBB : after (exec .txEscBB State.reset) (·.result) = some (.bytes [0xBB#8, 0x44#8]) := by decide
theorem test_txEscCC : after (exec .txEscCC State.reset) (·.result) = some (.bytes [0xBB#8, 0x33#8]) := by decide
theorem test_txLit : after (exec (.txLit 0x55#8) State.reset) (·.result) = some (.bytes [0x55#8]) := by decide
theorem test_txStart : after (exec .txStart State.reset) (·.result) = some (.bytes [0xAA#8]) := by decide
theorem test_txEnd : after (exec .txEnd State.reset) (·.result) = some (.bytes [0xCC#8]) := by decide

/-- R21, R114: a row in the middle of a byte-serial frame holds nothing and leaves that frame alone. -/
theorem test_txStart_stateless :
    after (exec .txStart (serial .txBody [0xFC#8])) (fun t => (t.txs, t.txQ, t.txState)) =
      some ([], [0xFC#8], .txBody) := by decide

/-- R103: payload 66 66 has checksum CC; its rows in order make its frame. -/
theorem test_rows_make_the_frame :
    outputs [.txStart, .txLit 0x66#8, .txLit 0x66#8, .txEscCC, .txEnd] State.reset =
      some [0xAA#8, 0x66#8, 0x66#8, 0xBB#8, 0x33#8, 0xCC#8] := by decide

/-- Step 3 of the byte-serial trace in 2.2: CC is taken, BB emitted, 33 held. -/
theorem test_txStep_escapes :
    after (txStep (serial .txBody [0xCC#8, 0x20#8, 0xFC#8])) (fun t => (t.txs, t.txHold, t.txQ, t.txState)) =
      some ([0xBB#8], 0x33#8, [0x20#8, 0xFC#8], .txEsc2) := by decide

/-- Step 6 of that trace: the last source byte. -/
theorem test_txStep_last :
    after (txStep (serial .txBody [0xFC#8])) (fun t => (t.txs, t.txQ, t.txState)) = some ([0xFC#8], [], .txEnd) := by
  decide

/-! Commands: spec/95 tables 2.1, 2.2, 2.4, 2.5 and programs P5, P7. -/

theorem test_cmdReset_row5 :
    after (exec .cmdReset (escaped [0x01#8])) (fun t => (t.rxState, t.rxLen, t.evs)) = some (.idle, 0, []) := by
  decide

theorem test_cmdReset_row12 : after (exec .cmdReset faulted) (·.rxFault) = some false := by decide

theorem test_cmdRxStep_row7 :
    after (exec (.cmdRxStep 0xAA#8) (inPacket [0x01#8, 0x02#8] 0)) (·.result) =
      some (.reports [{ event := .resync, diag := [0x01#8, 0x02#8] }]) := by decide

theorem test_cmdRxFeed_row3 :
    after (exec (.cmdRxFeed [0xAA#8, 0x05#8, 0xCC#8]) State.reset) (fun t => (t.result, t.rxErrcnt)) =
      some (.reports [quiet, quiet, { event := .badChecksum, diag := [0x05#8] }], 1) := by decide

/-- P7a: the faulting step and the step not taken give no report. -/
theorem test_cmdRxFeed_P7a :
    after (exec (.cmdRxFeed [0x30#8, 0xCC#8]) (fullIn .inPacket)) (fun t => (t.result, t.rxFault, t.rxState)) =
      some (.reports [], true, .inPacket) := by decide

theorem test_cmdTxFrame :
    after (exec (.cmdTxFrame [] 0xAA#8) State.reset) (·.result) =
      some (.bytes [0xAA#8, 0xBB#8, 0x55#8, 0xCC#8]) := by decide

theorem test_cmdTxFrame_serial :
    after (exec (.cmdTxFrame [0x05#8] 0x06#8) (serial .txIdle [])) (fun t => (t.txQ, t.txState)) =
      some ([0x05#8, 0x06#8], .txStart) := by decide

theorem test_cmdTxEncode_5D5E :
    after (exec (.cmdTxEncode [0x5D#8, 0x5E#8]) State.reset) (·.result) =
      some (.bytes [0xAA#8, 0x5D#8, 0x5E#8, 0xBB#8, 0x44#8, 0xCC#8]) := by decide

theorem test_cmdTxEncode_serial :
    after (exec (.cmdTxEncode [0x10#8, 0xCC#8, 0x20#8]) (serial .txIdle [])) (fun t => (t.txQ, t.txState)) =
      some ([0x10#8, 0xCC#8, 0x20#8, 0xFC#8], .txStart) := by decide

theorem test_cmdRdErrcnt :
    after (exec .cmdRdErrcnt (inPacket [] 2)) (fun t => (t.result, t.rxErrcnt)) = some (.errcnt 2, 2) := by decide

theorem test_cmdRdStatus_row4 :
    after (exec .cmdRdStatus (escaped [0x01#8])) (·.result) = some (.status .inPacketEscaped true 1 false) := by decide

theorem test_cmdCsum_wraps :
    after (exec (.cmdCsum [0xFF#8, 0xFF#8, 0x02#8]) State.reset) (·.result) = some (.byte 0x00#8) := by decide

theorem test_cmdCsum_markers :
    after (exec (.cmdCsum [0xAA#8, 0xBB#8, 0xCC#8]) State.reset) (·.result) = some (.byte 0x31#8) := by decide

theorem test_cmdUnescape_55 :
    after (exec (.cmdUnescape 0x55#8) State.reset) (·.result) = some (.unescaped (some 0xAA#8)) := by decide

theorem test_cmdUnescape_56 :
    after (exec (.cmdUnescape 0x56#8) State.reset) (·.result) = some (.unescaped none) := by decide

theorem test_cmdReframe_AA :
    after (exec (.cmdReframe [0xAA#8]) State.reset) (·.result) =
      some (.bytes [0xAA#8, 0xBB#8, 0x55#8, 0xCC#8]) := by decide

theorem test_cmdReframe_empty :
    after (exec (.cmdReframe []) State.reset) (·.result) = some (.bytes [0xAA#8, 0xCC#8]) := by decide

/-- R125 with `ERRCNT_MAX` = 2: 0, 1, 2, 2. -/
theorem test_saturate :
    saturate (.atMost 2) (0 + 1) = 1 ∧ saturate (.atMost 2) (1 + 1) = 2 ∧ saturate (.atMost 2) (2 + 1) = 2 := by decide

/-- S3's `Resync` as the host logs it: AA 01 02 CC. -/
theorem test_hostEvent :
    hostEvent { event := .resync, diag := [0x01#8, 0x02#8] } =
      some (.diagnostic .desyncDetected [0xAA#8, 0x01#8, 0x02#8, 0xCC#8]) := by decide

/-- R64, R65: the frames of `[AA BB CC]`. -/
theorem test_wire :
    expand (.frame [0xAA#8, 0xBB#8, 0xCC#8]) =
      [0xAA#8, 0xBB#8, 0x55#8, 0xBB#8, 0x44#8, 0xBB#8, 0x33#8, 0x31#8, 0xCC#8] ∧
    isFrame [0xAA#8, 0xBB#8, 0x55#8, 0xBB#8, 0x44#8, 0xBB#8, 0x33#8, 0x31#8, 0xCC#8] = true ∧
    isFrame [0xAA#8, 0x05#8, 0x06#8, 0xCC#8] = false ∧ isFrame [0xAA#8, 0xCC#8] = false := by decide

/-- The first bytes of P4: the AA after the dangling BB is an invalid escape. -/
theorem test_disassemble_P4 :
    disassemble [0xAA#8, 0x00#8, 0xBB#8, 0xAA#8] State.reset =
      [.rxIdleStart, .rxPktData 0x00#8, .rxPktEsc, .rxEscInvalid 0xAA#8] := by decide

/-! Witnesses: for every obligation with hypotheses, a case that meets them all together. -/

theorem witness_DecodeReadsBackEveryEncoding :
    (Instr.rxIdleOther 0xAB#8).wellFormed = true ∧ (Instr.rxIdleOther 0xAB#8).fitsContext .idle ∧
    (Instr.txLit 0xA9#8).wellFormed = true ∧ (Instr.txLit 0xA9#8).fitsContext .inPacketEscaped :=
  ⟨rfl, .inr rfl, rfl, .inl rfl⟩

theorem witness_EncodingReadsBackEveryDecode :
    decode .inPacketEscaped { port := .rxs, data := [0x32#8] } = .ok (.rxEscInvalid 0x32#8) := by decide

theorem witness_StepRunsThePresentedInstruction :
    ∃ (s : State) (rest : List Move), s.inputs = .present { port := .rxs, data := [0xAA#8] } :: rest ∧
      decode s.rxState { port := .rxs, data := [0xAA#8] } = .ok .rxIdleStart ∧ Instr.wellFormed .rxIdleStart = true :=
  ⟨State.reset.withFetchWord 8 0xAA, [], by decide⟩

theorem witness_StepRunsThePresentedInstruction_framer :
    (∃ (s : State) (rest : List Move), s.inputs = .txStep :: rest) ∧ State.reset.inputs = [] :=
  ⟨⟨{ State.reset with inputs := [.txStep] }, [], rfl⟩, rfl⟩

theorem witness_StepStopsOnlyOnMalformedInputOrEmptyQueue :
    (∃ s r, step s = .refused r) ∧ ∃ s f, step s = .fault f :=
  ⟨⟨{ State.reset with inputs := [.present { port := .rxs, data := [] }] }, .malformed (.missingOperand .rxs), rfl⟩,
    ⟨serial .txBody [], .txQueueEmpty, rfl⟩⟩

/-- Idle after three failures. -/
theorem witness_InvariantStatesNeverFault : State.Inv { State.reset with rxErrcnt := 3 } :=
  ⟨rfl, ⟨fun _ => rfl, rfl, rfl⟩, ⟨by decide, fun _ => rfl, by decide, fun _ => rfl⟩⟩

theorem witness_StepKeepsTheInvariant :
    ∃ s t : State, s.Inv ∧ step s = .next t ∧ t.rxState = .inPacket :=
  ⟨State.reset.withFetchWord 8 0xAA, _,
    ⟨rfl, ⟨fun _ => rfl, rfl, rfl⟩, ⟨by decide, fun _ => rfl, by decide, fun _ => rfl⟩⟩, rfl, rfl⟩

theorem witness_OnlyResetClearsTheFault :
    (∃ t, exec .cmdReset faulted = .next t) ∧ (∃ t, exec (.cmdRxStep 0xAA#8) faulted = .next t) ∧
      faulted.rxFault = true :=
  ⟨⟨_, rfl⟩, ⟨_, rfl⟩, rfl⟩

/-- Also of `RoundTripFromIdle`, `OtherBytesInIdleAreIgnored` and `NoiseInIdleIsTransparent`. -/
theorem witness_StartMarkerInIdleOpensAFrame :
    ∃ s : State, s.rxFault = false ∧ s.rxState = .idle ∧ s.Inv :=
  ⟨_, rfl, rfl, witness_InvariantStatesNeverFault⟩

/-- The "any other" bytes at their edges: the neighbours of the markers. -/
theorem witness_OtherBytesInIdleAreIgnored :
    ∀ b ∈ [0x00#8, 0xA9#8, 0xAB#8, 0xBA#8, 0xBC#8, 0xCB#8, 0xCD#8, 0xFF#8],
      b ≠ 0xAA#8 ∧ b ≠ 0xCC#8 ∧ b ≠ 0xBB#8 := by decide

theorem witness_StartMarkerInPacketResyncs :
    (inPacket [] 0).rxFault = false ∧ (inPacket [] 0).rxState = .inPacket ∧
    (inPacket [0x01#8] 5).rxFault = false ∧ (inPacket [0x01#8] 5).rxState = .inPacket ∧
    State.reset.rxFault = false ∧ State.reset.rxState = .idle := by decide

/-- The three cases of the buffer: empty, one byte that matches the empty payload, one that does not. -/
theorem witness_EndMarkerClosesTheFrame :
    (inPacket [] 0).rxFault = false ∧ (inPacket [] 0).rxState = .inPacket ∧ (inPacket [] 0).rxBuf = [] ∧
    (inPacket [0x00#8] 0).rxBuf = [] ++ [checksum []] ∧
    (inPacket [0x05#8] 0).rxBuf = [] ++ [0x05#8] ∧ checksum [] ≠ 0x05#8 := by decide

theorem witness_EndMarkerClosesTheFrame_packet :
    Instr.context .rxPktEnd ≠ none ∧
    ∃ t, exec .rxPktEnd (inPacket [0x00#8] 0) = .next t ∧ t.event = .packetComplete [] := ⟨by decide, _, rfl, rfl⟩

theorem witness_EscapeMarkerSetsTheFlag :
    (inPacket [0x01#8] 0).rxFault = false ∧ (inPacket [0x01#8] 0).rxState = .inPacket := by decide

/-- One place left in a buffer of two, and an unbounded buffer. -/
theorem witness_DataByteIsAppended :
    ∀ s ∈ [inPacket [] 0, { fullIn .inPacket with rxBuf := [0x10#8] }],
      s.rxFault = false ∧ s.rxState = .inPacket ∧ s.params.bufCapacity ≠ .atMost s.rxLen := by decide

theorem witness_EscapeCodesAppendMarkers :
    ∀ s ∈ [escaped [], { fullIn .inPacketEscaped with rxBuf := [0x10#8] }],
      s.rxFault = false ∧ s.rxState = .inPacketEscaped ∧ s.params.bufCapacity ≠ .atMost s.rxLen := by decide

theorem witness_InvalidEscapeDropsTheByte :
    (fullIn .inPacketEscaped).rxFault = false ∧ (fullIn .inPacketEscaped).rxState = .inPacketEscaped ∧
    ∀ b ∈ [0x00#8, 0x32#8, 0x45#8, 0x54#8, 0x56#8, 0xAA#8, 0xBB#8, 0xCC#8, 0xFF#8],
      b ≠ 0x55#8 ∧ b ≠ 0x44#8 ∧ b ≠ 0x33#8 := by decide

theorem witness_FullBufferFaults :
    (∀ ctx ∈ [DecoderState.inPacket, DecoderState.inPacketEscaped], (fullIn ctx).rxFault = false ∧
      (fullIn ctx).params.bufCapacity = .atMost (fullIn ctx).rxLen ∧ (fullIn ctx).rxState = ctx) ∧
    (0x30#8 ≠ 0xAA#8 ∧ 0x30#8 ≠ 0xCC#8 ∧ 0x30#8 ≠ 0xBB#8) := by decide

theorem witness_FullBufferFaults_unbounded :
    (inPacket [] 0).params.bufCapacity = .unbounded ∧ (inPacket [] 0).rxFault = false ∧
    ∃ t, exec (.rxPktData 0x30#8) (inPacket [] 0) = .next t := ⟨rfl, rfl, _, rfl⟩

theorem witness_FaultedDeframerTakesNoStep :
    faulted.rxFault = true ∧ Instr.context .rxPktEnd ≠ none := by decide

theorem witness_StepCommandAppliesTheSelectedRow :
    (fullIn .inPacket).rxFault = false ∧ State.reset.rxFault = false := by decide

/-- Also of `EncodeCommandFramesWithTheChecksum`. -/
theorem witness_FrameCommandDeliversTheFrame :
    State.reset.params.framer = .function := by decide

/-- Also of `SerialFramerEmitsTheFrame`. -/
theorem witness_SerialFramerTakesAFrame :
    (serial .txIdle []).params.framer = .byteSerial ∧ (serial .txIdle []).txState = .txIdle ∧
    ∃ t, exec (.cmdTxFrame [0x66#8] 0xCC#8) (serial .txIdle []) = .next t := ⟨rfl, rfl, _, rfl⟩

/-- A boundary value of the second clause of `SerialFramerEmitsTheFrame`. -/
theorem witness_SerialFramerEmitsTheFrame : 0 ≤ (escapeAndFrame [0x66#8] 0xCC#8).length ∧
    5 ≤ (escapeAndFrame [0x66#8] 0xCC#8).length := by decide

theorem witness_BusyFramerRefusesFrames :
    (serial .txStart [0x00#8]).params.framer = .byteSerial ∧ (serial .txStart [0x00#8]).txState ≠ .txIdle := by decide

/-- Each clause: a whole frame at the function level; a frame taken, a byte of one sent and one dropped by reset at the
byte-serial level; and an instruction that meets a frame being sent. -/
theorem witness_FramesAreNeverInterleaved :
    (∃ s t : State, s.Inv ∧ s.params.framer = .function ∧ step s = .next t ∧ t.txs = escapeAndFrame [] 0xBB#8) ∧
    (∃ s t : State, s.Inv ∧ s.params.framer = .byteSerial ∧ step s = .next t ∧ t.toSend = escapeAndFrame [] 0xBB#8) ∧
    (∃ s t : State, s.Inv ∧ s.params.framer = .byteSerial ∧ step s = .next t ∧ t.txs = [0x66#8] ∧
      t.toSend = [0xCC#8]) ∧
    (∃ s t : State, s.Inv ∧ s.params.framer = .byteSerial ∧ step s = .next t ∧ s.toSend = [0xCC#8] ∧ t.toSend = []) ∧
    ((serial .txEsc2 []).framerBusy = true ∧
      (∃ t, exec .txStart (serial .txEsc2 []) = .next t) ∧ Instr.txStart ≠ .cmdReset) :=
  ⟨⟨{ State.reset with inputs := [.present { port := .txFrame, data := [0xBB#8] }] }, _,
      ⟨rfl, ⟨fun _ => rfl, rfl, rfl⟩, ⟨by decide, fun _ => rfl, by decide, fun _ => rfl⟩⟩, rfl, rfl, rfl⟩,
    ⟨{ serial .txIdle [] with inputs := [.present { port := .txFrame, data := [0xBB#8] }] }, _,
      ⟨rfl, ⟨fun _ => rfl, rfl, rfl⟩, ⟨by decide, fun _ => rfl, by decide, by decide⟩⟩, rfl, rfl, rfl⟩,
    ⟨serial .txBody [0x66#8], _,
      ⟨rfl, ⟨fun _ => rfl, rfl, rfl⟩, ⟨by decide, by decide, by decide, by decide⟩⟩, rfl, rfl, rfl, rfl⟩,
    ⟨{ serial .txEnd [] with inputs := [.present { port := .reset, data := [] }] }, _,
      ⟨rfl, ⟨fun _ => rfl, rfl, rfl⟩, ⟨by decide, fun _ => rfl, by decide, by decide⟩⟩, rfl, rfl, rfl, rfl⟩,
    by decide, ⟨_, rfl⟩, by decide⟩

theorem witness_TxStepByState :
    State.reset.txState = .txIdle ∧ (serial .txStart [0x00#8]).txState = .txStart ∧
    (serial .txBody [0x00#8]).txState = .txBody ∧ (serial .txBody [0x00#8]).txQ = 0x00#8 :: [] ∧
    (serial .txEsc2 []).txState = .txEsc2 ∧ (serial .txEnd []).txState = .txEnd := by decide

theorem witness_FramesHideTheMarkers :
    (escapeAndFrame [] 0xBB#8)[1]? = some 0xBB#8 ∧
    escapeAndFrame [0x01#8] 0x01#8 = escapeAndFrame [0x01#8] 0x01#8 := by decide

theorem witness_UnescapeCommandMapsTheCodes :
    ∀ x ∈ [0xAA#8, 0xBB#8, 0xCC#8], x = 0xAA#8 ∨ x = 0xBB#8 ∨ x = 0xCC#8 := by decide

theorem witness_ChecksumIgnoresOrderAndZeros : [0x10#8, 0x20#8].Perm [0x20#8, 0x10#8] := .swap _ _ _

/-- A changed payload byte, and a changed checksum byte. -/
theorem witness_OneChangedByteIsDetected :
    (0x20#8 ≠ 0x21#8 ∧ [0x10#8] ++ [0x20#8] ++ [0x30#8] = [0x10#8, 0x20#8] ++ [0x30#8] ∧
      [0x10#8] ++ [0x21#8] ++ [0x30#8] = [0x10#8, 0x21#8] ++ [0x30#8] ∧ checksum [0x10#8, 0x20#8] = 0x30#8) ∧
    (0x30#8 ≠ 0x31#8 ∧ [0x10#8, 0x20#8] ++ [0x30#8] ++ [] = [0x10#8, 0x20#8] ++ [0x30#8] ∧
      [0x10#8, 0x20#8] ++ [0x31#8] ++ [] = [0x10#8, 0x20#8] ++ [0x31#8]) ∧
    (inPacket [0x10#8, 0x21#8, 0x30#8] 0).rxFault = false ∧
    (inPacket [0x10#8, 0x21#8, 0x30#8] 0).rxState = .inPacket ∧
    (inPacket [0x10#8, 0x21#8, 0x30#8] 0).rxBuf = [0x10#8] ++ [0x21#8] ++ [0x30#8] := by decide

theorem witness_NoPacketWithoutChecksumMatch :
    (∀ bs, Instr.cmdRxStep 0xCC#8 ≠ .cmdRxFeed bs) ∧
    (∃ t, exec (.cmdRxStep 0xCC#8) (inPacket [0x00#8] 0) = .next t ∧ t.event = .packetComplete []) ∧
    ∃ t rs, exec (.cmdRxFeed [0xAA#8, 0x00#8, 0xCC#8]) State.reset = .next t ∧ t.result = .reports rs ∧
      rs[2]? = some { event := .packetComplete [], diag := [] } :=
  ⟨by simp, ⟨_, rfl, rfl⟩, _, _, rfl, rfl, rfl⟩

theorem witness_EventsComeFromTheirBytes :
    (∃ t, exec (.cmdRxStep 0xCC#8) (inPacket [0x00#8] 0) = .next t ∧ t.event = .packetComplete []) ∧
    (∃ t, exec (.cmdRxStep 0xCC#8) (inPacket [0x05#8] 0) = .next t ∧ t.event = .badChecksum) ∧
    (∃ t, exec (.cmdRxStep 0xAA#8) (inPacket [] 0) = .next t ∧ t.event = .resync) ∧
    (∃ t, exec (.cmdRxStep 0x99#8) (escaped []) = .next t ∧ t.event = .invalidEscape) ∧
    (∃ t, exec (.cmdRxStep 0xBB#8) (inPacket [] 0) = .next t ∧ t.rxState = .inPacketEscaped ∧ t.rxFault = false) ∧
    (∃ t rs, exec (.cmdRxFeed [0xAA#8, 0xAA#8]) State.reset = .next t ∧ t.result = .reports rs) :=
  ⟨⟨_, rfl, rfl⟩, ⟨_, rfl, rfl⟩, ⟨_, rfl, rfl⟩, ⟨_, rfl, rfl⟩, ⟨_, rfl, rfl, rfl⟩, ⟨_, _, rfl, rfl⟩⟩

theorem witness_CounterCountsFailures :
    State.reset.rxErrcnt = 0 ∧ ∃ t, exec (.cmdRxFeed [0xAA#8, 0x05#8, 0xCC#8]) State.reset = .next t ∧
      t.result = .reports [quiet, quiet, { event := .badChecksum, diag := [0x05#8] }] ∧ t.rxErrcnt = 1 :=
  ⟨rfl, _, rfl, by decide, by decide⟩

theorem witness_BufferIsClearedOnFourOccasions :
    (inPacket [0x05#8] 0).rxFault = false ∧ (inPacket [0x05#8] 0).rxBuf ≠ [] ∧
    ∃ t, exec (.cmdRxStep 0xCC#8) (inPacket [0x05#8] 0) = .next t ∧ t.rxBuf = [] := ⟨rfl, by decide, _, rfl, rfl⟩

theorem witness_MarkersEnterTheBufferOnlyEscaped :
    (∃ t, exec (.cmdRxStep 0x55#8) (escaped [0x01#8]) = .next t ∧ t.rxBuf = (escaped [0x01#8]).rxBuf ++ [0xAA#8]) ∧
    (∃ t, exec (.cmdRxStep 0x55#8) (inPacket [] 0) = .next t ∧ t.rxBuf = (inPacket [] 0).rxBuf ++ [0x55#8]) :=
  ⟨⟨_, rfl, rfl⟩, ⟨_, rfl, rfl⟩⟩

theorem witness_DeframerDependsOnItsOwnStateAlone :
    SameDeframer (inPacket [0x00#8] 0) { inPacket [0x00#8] 0 with txs := [0x11#8], csumAcc := 0x22#8 } ∧
    ∃ t, exec .rxPktEnd (inPacket [0x00#8] 0) = .next t := ⟨⟨rfl, rfl, rfl, rfl, rfl⟩, _, rfl⟩

theorem witness_FramerAndDeframerDoNotInterlock :
    (∃ t, exec (.cmdTxEncode [0xCC#8]) (inPacket [0x07#8] 0) = .next t) ∧
    (∃ t, txStep (serial .txBody [0x00#8]) = .next t) ∧
    (∃ t, exec (.cmdRxFeed [0xAA#8]) (serial .txBody [0x00#8]) = .next t) := ⟨⟨_, rfl⟩, ⟨_, rfl⟩, ⟨_, rfl⟩⟩

/-- Also of `ParametersAreFixed`. -/
theorem witness_StreamsOnlyGrow : ∃ t, step (serial .txBody [0x00#8]) = .next t := ⟨_, rfl⟩

theorem witness_RoundTripFromIdle :
    State.reset.rxFault = false ∧ State.reset.rxState = .idle ∧
    State.reset.params.bufCapacity.allows ([0x10#8, 0x20#8].length + 1) = true ∧
    ({ fullIn .idle with rxBuf := [] }).params.bufCapacity.allows ([0x10#8].length + 1) = true := by decide

theorem witness_RoundTripFromInPacket :
    (fullIn .inPacket).rxFault = false ∧ (fullIn .inPacket).rxState = .inPacket ∧
    (fullIn .inPacket).params.bufCapacity.allows ([0x10#8].length + 1) = true := by decide

/-- A buffer that sums to zero and one that does not, the second with room for exactly what comes. -/
theorem witness_FrameAfterPendingEscapeMerges :
    (escaped [0x80#8, 0x80#8]).rxFault = false ∧ (escaped [0x80#8, 0x80#8]).rxState = .inPacketEscaped ∧
    checksum [0x80#8, 0x80#8] = 0#8 ∧
    (escaped [0x80#8, 0x80#8]).params.bufCapacity.allows ((escaped [0x80#8, 0x80#8]).rxBuf.length + 1 + 1) = true ∧
    ({ fullIn .inPacketEscaped with rxBuf := [0x07#8] }).params.bufCapacity.allows ([0x07#8].length + 0 + 1) = true ∧
    checksum [0x07#8] ≠ 0#8 := by decide

theorem witness_SecondFrameAlwaysDecodes :
    (escaped [0x07#8]).rxFault = false ∧
    (escaped [0x07#8]).params.bufCapacity.allows ((escaped [0x07#8]).rxBuf.length + 1 + 1) = true ∧
    (escaped [0x07#8]).params.bufCapacity.allows (1 + 1) = true := by decide

theorem witness_RecoveryAfterFramingErrors :
    (inPacket [0x05#8] 0).rxFault = false ∧ (inPacket [0x05#8] 0).params.bufCapacity.allows (1 + 1) = true ∧
    (∃ t, exec (.cmdRxStep 0xCC#8) (inPacket [0x05#8] 0) = .next t ∧ t.event = .badChecksum) ∧
    (escaped [0x05#8]).rxFault = false ∧ (escaped [0x05#8]).params.bufCapacity.allows (1 + 1) = true ∧
    (∃ t, exec (.cmdRxStep 0xAA#8) (escaped [0x05#8]) = .next t ∧ t.event = .invalidEscape) :=
  ⟨rfl, rfl, ⟨_, rfl, rfl⟩, rfl, rfl, ⟨_, rfl, rfl⟩⟩

theorem witness_NoiseInIdleIsTransparent :
    State.reset.rxFault = false ∧ State.reset.rxState = .idle ∧
    0xAA#8 ∉ [0x00#8, 0xCC#8, 0xBB#8, 0x55#8, 0xA9#8, 0xAB#8] := by decide

end Sys2Proof.Tests
end

section
/-! PROOFS of the family 10_state.md: the deframer's and the framer's registers, the fault, the buffer, and the invariant
that every step keeps. -/

namespace Sys2Proof.Machine

/-! ### The rule behind each RX row -/

/-- The rule of an RX row (R71 to R86), context and operand unchecked; the other instructions have none. -/
def rowRule : Instr → State → State
  | .rxIdleStart => ruleIdleStart
  | .rxIdleEnd => ruleIdleEnd
  | .rxIdleEsc => ruleIdleEsc
  | .rxIdleOther b => ruleIdleOther b
  | .rxPktStart => rulePktStart
  | .rxPktEnd => rulePktEnd
  | .rxPktEsc => rulePktEsc
  | .rxPktData b => rulePktData b
  | .rxEsc55 => ruleEsc55
  | .rxEsc44 => ruleEsc44
  | .rxEsc33 => ruleEsc33
  | .rxEscInvalid b => ruleEscInvalid b
  | _ => id

/-- An RX row runs its rule in its context (R54, R70). -/
theorem exec_eq_runRx {i : Instr} {ctx : DecoderState} (h : i.context = some ctx) (s : State) :
    exec i s = runRx ctx (rowRule i) s := by
  cases i <;> simp only [Instr.context, Option.some.injEq, reduceCtorEq] at h <;> subst h <;> rfl

/-- `step(b)` of an unfaulted deframer is the rule of the row the byte selects (R70). -/
theorem rxStep_eq_rowRule {s : State} (hf : s.rxFault = false) (b : Byte) :
    rxStep b s = rowRule (classifyRx s.rxState b) s := by
  cases hs : s.rxState <;> simp only [rxStep, hf, hs, classifyRx, Bool.false_eq_true, if_false] <;> split_ifs <;> rfl

/-- How an end marker finds the buffer: empty, with the right checksum, or with a wrong one (R76 to R79). -/
theorem buffer_cases (m : Memory) :
    m = [] ∨ (∃ p, m = p ++ [checksum p]) ∨ ∃ p c, m = p ++ [c] ∧ checksum p ≠ c := by
  rcases List.eq_nil_or_concat m with h | ⟨p, c, h⟩
  · exact .inl h
  · rw [List.concat_eq_append] at h
    by_cases hc : checksum p = c
    · exact .inr (.inl ⟨p, hc ▸ h⟩)
    · exact .inr (.inr ⟨p, c, h, hc⟩)

/-! ### Two runs of the same deframer (R22, R137) -/

theorem SameDeframer.bufFull {s s' : State} (h : SameDeframer s s') : s.bufFull = s'.bufFull := by
  unfold State.bufFull State.rxLen
  rw [h.params, h.rxBuf]

theorem SameDeframer.countedErrcnt {s s' : State} (h : SameDeframer s s') : s.countedErrcnt = s'.countedErrcnt := by
  simp [State.countedErrcnt, h.params, h.rxErrcnt]

/-- Two runs, begun with EVS at `e` and `e'`, that have behaved alike: the same deframer, the same outputs, and the same
events added to EVS. -/
structure Alike (e e' : List Report) (s s' : State) : Prop where
  deframer : SameDeframer s s'
  event : s.event = s'.event
  diag : s.diag = s'.diag
  result : s.result = s'.result
  evs : ∃ es, s.evs = e ++ es ∧ s'.evs = e' ++ es

/-- A presentation to two states with the same deframer begins alike. -/
theorem SameDeframer.alike_clearOutputs {s s' : State} (h : SameDeframer s s') :
    Alike s.evs s'.evs s.clearOutputs s'.clearOutputs :=
  ⟨⟨h.rxState, h.rxBuf, h.rxErrcnt, h.rxFault, h.params⟩, rfl, rfl, rfl, [], by simp⟩

namespace Alike

variable {e e' : List Report} {s s' : State} (h : Alike e e' s s')
include h

theorem freshEvent : Alike e e' s.freshEvent s'.freshEvent :=
  ⟨⟨h.deframer.rxState, h.deframer.rxBuf, h.deframer.rxErrcnt, h.deframer.rxFault, h.deframer.params⟩,
    rfl, rfl, h.result, h.evs⟩

theorem withResult (r : Result) : Alike e e' (s.withResult r) (s'.withResult r) :=
  ⟨⟨h.deframer.rxState, h.deframer.rxBuf, h.deframer.rxErrcnt, h.deframer.rxFault, h.deframer.params⟩,
    h.event, h.diag, rfl, h.evs⟩

/-- The accumulator is scratch (R20): it is no part of the deframer. -/
theorem csumAcc (a a' : Byte) : Alike e e' { s with csumAcc := a } { s' with csumAcc := a' } :=
  ⟨⟨h.deframer.rxState, h.deframer.rxBuf, h.deframer.rxErrcnt, h.deframer.rxFault, h.deframer.params⟩,
    h.event, h.diag, h.result, h.evs⟩

theorem takeEvent (ev : Event) (d : List Byte) : Alike e e' (s.takeEvent ev d) (s'.takeEvent ev d) := by
  have ⟨hd, he, hg, hr, es, hs, hs'⟩ := h
  have hadd : ∀ r : Report, ∃ es, s.evs ++ [r] = e ++ es ∧ s'.evs ++ [r] = e' ++ es :=
    fun r => ⟨es ++ [r], by simp [hs], by simp [hs']⟩
  cases ev with
  | none => exact h
  | packetComplete p => exact ⟨⟨rfl, rfl, rfl, hd.rxFault, hd.params⟩, rfl, rfl, hr, hadd _⟩
  | badChecksum => exact ⟨⟨rfl, rfl, hd.countedErrcnt, hd.rxFault, hd.params⟩, rfl, rfl, hr, hadd _⟩
  | invalidEscape => exact ⟨⟨rfl, hd.rxBuf, hd.countedErrcnt, hd.rxFault, hd.params⟩, rfl, rfl, hr, hadd _⟩
  | resync => exact ⟨⟨rfl, rfl, hd.rxErrcnt, hd.rxFault, hd.params⟩, rfl, rfl, hr, hadd _⟩

theorem appendThen (b : Byte) (next : DecoderState) : Alike e e' (s.appendThen b next) (s'.appendThen b next) := by
  obtain ⟨hd, he, hg, hr, hv⟩ := h
  have hfull := hd.bufFull
  cases hb : s.bufFull with
  | true =>
    rw [State.appendThen_full hb, State.appendThen_full (hfull ▸ hb)]
    exact ⟨⟨hd.rxState, hd.rxBuf, hd.rxErrcnt, rfl, hd.params⟩, he, hg, hr, hv⟩
  | false =>
    rw [State.appendThen_room hb, State.appendThen_room (hfull ▸ hb)]
    exact ⟨⟨rfl, congrArg (· ++ [b]) hd.rxBuf, hd.rxErrcnt, hd.rxFault, hd.params⟩, he, hg, hr, hv⟩

theorem afterPktEnd : Alike e e' (rulePktEnd s) (rulePktEnd s') := by
  have hbuf := h.deframer.rxBuf
  rcases buffer_cases s.rxBuf with hb | ⟨p, hb⟩ | ⟨p, c, hb, hc⟩
  · rw [rulePktEnd_empty hb, rulePktEnd_empty (hbuf ▸ hb)]
    exact h
  · rw [rulePktEnd_match hb, rulePktEnd_match (hbuf ▸ hb)]
    exact (h.csumAcc _ _).takeEvent _ _
  · rw [rulePktEnd_mismatch hb hc, rulePktEnd_mismatch (hbuf ▸ hb) hc, ← hbuf]
    exact (h.csumAcc _ _).takeEvent _ _

/-- Every row's rule keeps two runs alike. -/
theorem afterRule (i : Instr) : Alike e e' (rowRule i s) (rowRule i s') := by
  have ⟨hd, he, hg, hr, hv⟩ := h
  cases i with
  | rxIdleStart => exact ⟨⟨rfl, rfl, hd.rxErrcnt, hd.rxFault, hd.params⟩, he, hg, hr, hv⟩
  | rxPktStart =>
    show Alike e e' (s.takeEvent .resync s.rxBuf) (s'.takeEvent .resync s'.rxBuf)
    rw [← hd.rxBuf]
    exact h.takeEvent _ _
  | rxPktEnd => exact h.afterPktEnd
  | rxPktEsc => exact ⟨⟨rfl, hd.rxBuf, hd.rxErrcnt, hd.rxFault, hd.params⟩, he, hg, hr, hv⟩
  | rxPktData b => exact h.appendThen b _
  | rxEsc55 => exact h.appendThen _ _
  | rxEsc44 => exact h.appendThen _ _
  | rxEsc33 => exact h.appendThen _ _
  | rxEscInvalid b => exact h.takeEvent .invalidEscape [b]
  | _ => exact h

theorem afterStep (b : Byte) : Alike e e' (rxStep b s) (rxStep b s') := by
  have hfault := h.deframer.rxFault
  cases hf : s.rxFault with
  | true =>
    rw [rxStep_faulted hf, rxStep_faulted (hfault ▸ hf)]
    exact h
  | false =>
    rw [rxStep_eq_rowRule hf, rxStep_eq_rowRule (hfault ▸ hf), ← h.deframer.rxState]
    exact h.afterRule _

/-- `Run` (R87) keeps two runs alike, and reports the same. -/
theorem afterRun (bs : List Byte) :
    Alike e e' (feed bs s).1 (feed bs s').1 ∧ (feed bs s).2 = (feed bs s').2 := by
  induction bs generalizing s s' with
  | nil => exact ⟨h, rfl⟩
  | cons b bs ih =>
    have ht := h.freshEvent.afterStep b
    cases hf : (rxStep b s.freshEvent).rxFault with
    | true =>
      rw [feed_cons_faulted bs rfl hf, feed_cons_faulted bs rfl (ht.deframer.rxFault ▸ hf)]
      exact ⟨ht, rfl⟩
    | false =>
      rw [feed_cons bs rfl hf, feed_cons bs rfl (ht.deframer.rxFault ▸ hf)]
      obtain ⟨hrest, hreports⟩ := ih ht
      exact ⟨hrest, by rw [ht.event, ht.diag, hreports]⟩

end Alike

/-- Settles O51: `Alike` holds after the outputs are cleared, and the rule of every row, `step(b)` and `Run(s)` keep it. -/
theorem deframerDependsOnItsOwnStateAlone : Obligations.DeframerDependsOnItsOwnStateAlone := by
  intro i s s' t hi hd h
  have h0 := hd.alike_clearOutputs
  suffices hsim : ∃ t', exec i s' = .next t' ∧ Alike s.evs s'.evs t t' by
    obtain ⟨t', h', ha⟩ := hsim
    exact ⟨t', h', ha.deframer, ha.event, ha.diag, ha.result, ha.evs⟩
  rcases hi with hi | ⟨b, rfl⟩ | ⟨bs, rfl⟩
  · obtain ⟨ctx, hctx⟩ := Option.ne_none_iff_exists'.1 hi
    rw [exec_eq_runRx hctx] at h ⊢
    rcases runRx_cases h with ⟨hf, rfl⟩ | ⟨hf, hs, rfl⟩
    · exact ⟨_, runRx_faulted (hd.rxFault ▸ hf) _ _, h0⟩
    · exact ⟨_, runRx_next (hd.rxFault ▸ hf) (hd.rxState ▸ hs) _, h0.afterRule i⟩
  · rw [exec_cmdRxStep] at h
    injection h with h
    have ha := h0.afterStep b
    refine ⟨_, exec_cmdRxStep b s', ?_⟩
    rw [← h, ha.deframer.rxFault, ha.event, ha.diag]
    exact ha.withResult _
  · rw [exec_cmdRxFeed] at h
    injection h with h
    obtain ⟨ha, hr⟩ := h0.afterRun bs
    refine ⟨_, exec_cmdRxFeed bs s', ?_⟩
    rw [← h, hr]
    exact ha.withResult _

/-! ### The two agents' registers (R21, R114) -/

theorem SameFramer.refl (s : State) : SameFramer s s := ⟨rfl, rfl, rfl, rfl⟩

theorem SameFramer.trans {s t u : State} (h : SameFramer s t) (h' : SameFramer t u) : SameFramer s u :=
  ⟨h.txState.trans h'.txState, h.txQ.trans h'.txQ, h.txHold.trans h'.txHold, h.txs.trans h'.txs⟩

theorem State.takeEvent_sameFramer (s : State) (e : Event) (d : List Byte) : SameFramer s (s.takeEvent e d) := by
  cases e <;> exact ⟨rfl, rfl, rfl, rfl⟩

theorem State.appendThen_sameFramer (s : State) (b : Byte) (next : DecoderState) :
    SameFramer s (s.appendThen b next) := by
  constructor <;> simp

theorem rulePktEnd_sameFramer (s : State) : SameFramer s (rulePktEnd s) := by
  have hacc {a : Byte} : SameFramer s { s with csumAcc := a } := ⟨rfl, rfl, rfl, rfl⟩
  rcases buffer_cases s.rxBuf with hb | ⟨p, hb⟩ | ⟨p, c, hb, hc⟩
  · rw [rulePktEnd_empty hb]
    exact .refl s
  · rw [rulePktEnd_match hb]
    exact hacc.trans (State.takeEvent_sameFramer _ _ _)
  · rw [rulePktEnd_mismatch hb hc]
    exact hacc.trans (State.takeEvent_sameFramer _ _ _)

theorem rowRule_sameFramer (i : Instr) (s : State) : SameFramer s (rowRule i s) := by
  cases i with
  | rxPktStart => exact s.takeEvent_sameFramer .resync s.rxBuf
  | rxPktEnd => exact rulePktEnd_sameFramer s
  | rxPktData b => exact s.appendThen_sameFramer _ _
  | rxEsc55 => exact s.appendThen_sameFramer _ _
  | rxEsc44 => exact s.appendThen_sameFramer _ _
  | rxEsc33 => exact s.appendThen_sameFramer _ _
  | rxEscInvalid b => exact s.takeEvent_sameFramer .invalidEscape [b]
  | _ => exact ⟨rfl, rfl, rfl, rfl⟩

theorem rxStep_sameFramer (b : Byte) (s : State) : SameFramer s (rxStep b s) := by
  obtain ⟨hstate, hq, hhold, htxs, -⟩ := rxStep_frame b s
  exact ⟨hstate.symm, hq.symm, hhold.symm, htxs.symm⟩

theorem feed_sameFramer (bs : List Byte) (s : State) : SameFramer s (feed bs s).1 :=
  feed_induction (P := SameFramer s) (fun _ h => h.trans ⟨rfl, rfl, rfl, rfl⟩)
    (fun b u h => h.trans (rxStep_sameFramer b u)) bs (.refl s)

/-- The RX rows, CMD.RX.STEP and CMD.RX.FEED leave the framer alone. -/
theorem exec_deframer_sameFramer {i : Instr} {s t : State}
    (hi : i.context ≠ none ∨ (∃ b, i = .cmdRxStep b) ∨ ∃ bs, i = .cmdRxFeed bs) (h : exec i s = .next t) :
    SameFramer s t := by
  have h0 : SameFramer s s.clearOutputs := ⟨rfl, rfl, rfl, rfl⟩
  have hres : ∀ (u : State) (r : Result), SameFramer u (u.withResult r) := fun _ _ => ⟨rfl, rfl, rfl, rfl⟩
  rcases hi with hi | ⟨b, rfl⟩ | ⟨bs, rfl⟩
  · obtain ⟨ctx, hctx⟩ := Option.ne_none_iff_exists'.1 hi
    rw [exec_eq_runRx hctx] at h
    rcases runRx_cases h with ⟨-, rfl⟩ | ⟨-, -, rfl⟩
    · exact h0
    · exact h0.trans (rowRule_sameFramer i _)
  · rw [exec_cmdRxStep] at h
    injection h with h
    exact h ▸ (h0.trans (rxStep_sameFramer b _)).trans (hres _ _)
  · rw [exec_cmdRxFeed] at h
    injection h with h
    exact h ▸ (h0.trans (feed_sameFramer bs _)).trans (hres _ _)

/-- The TX rows and the frame commands leave the deframer and EVS alone. -/
theorem exec_framer_sameDeframer {i : Instr} {s t : State}
    (hi : i.format = .tx1 ∨ i.format = .tx0 ∨ (∃ p c, i = .cmdTxFrame p c) ∨ ∃ p, i = .cmdTxEncode p)
    (h : exec i s = .next t) : SameDeframer s t ∧ t.evs = s.evs := by
  rcases or_assoc.2 hi with hi | hi
  · obtain ⟨bs, rfl⟩ := txRow_cases hi h
    exact ⟨⟨rfl, rfl, rfl, rfl, rfl⟩, rfl⟩
  · rcases frameCommand_cases hi h with ⟨-, rfl⟩ | ⟨-, r, p, c, acc, rfl⟩ | ⟨-, -, p, c, acc, rfl⟩ <;>
      exact ⟨⟨rfl, rfl, rfl, rfl, rfl⟩, rfl⟩

/-- A `tx_step` leaves the deframer and EVS alone. -/
theorem txStep_sameDeframer {s t : State} (h : txStep s = .next t) : SameDeframer s t ∧ t.evs = s.evs := by
  rcases txStep_cases h with ⟨-, rfl⟩ | ⟨-, rfl⟩ | ⟨x, q, c, -, -, -, rfl⟩ | ⟨x, q, -, -, -, rfl⟩ | ⟨-, rfl⟩ | ⟨-, rfl⟩ <;>
    exact ⟨⟨rfl, rfl, rfl, rfl, rfl⟩, rfl⟩

/-- Settles O52, agent by agent. -/
theorem framerAndDeframerDoNotInterlock : Obligations.FramerAndDeframerDoNotInterlock :=
  ⟨fun _ _ _ => exec_framer_sameDeframer, fun _ _ => txStep_sameDeframer, fun _ _ _ => exec_deframer_sameFramer⟩

/-! ### The fault (R17, R90, R146) -/

/-- Settles O22: each way to present a byte tests `rx_fault` first. -/
theorem faultedDeframerTakesNoStep : Obligations.FaultedDeframerTakesNoStep := by
  intro s hf
  have hf' : s.clearOutputs.rxFault = true := hf
  refine ⟨fun i hi => ?_, fun b => ?_, fun bs => ?_⟩
  · obtain ⟨ctx, hctx⟩ := Option.ne_none_iff_exists'.1 hi
    rw [exec_eq_runRx hctx, runRx_faulted hf]
  · rw [exec_cmdRxStep, rxStep_faulted hf', if_pos hf']
  · have hfeed : feed bs s.clearOutputs = (s.clearOutputs, []) := by
      cases bs with
      | nil => rfl
      | cons b bs => exact feed_cons_faulted bs (rxStep_faulted hf' b) hf'
    rw [exec_cmdRxFeed, hfeed]

/-- The commands that only read, or only compute (R151 to R155), leave the deframer alone. -/
theorem exec_query_sameDeframer {i : Instr} {s t : State}
    (hi : i = .cmdRdErrcnt ∨ i = .cmdRdStatus ∨ (∃ bs, i = .cmdCsum bs) ∨ (∃ b, i = .cmdUnescape b) ∨
      ∃ bs, i = .cmdReframe bs) (h : exec i s = .next t) : SameDeframer s t := by
  rcases hi with rfl | rfl | ⟨bs, rfl⟩ | ⟨b, rfl⟩ | ⟨bs, rfl⟩
  case inr.inr.inl =>
    simp only [exec, execCmdCsum, State.runChecksum_eq] at h
    injection h with h
    exact h ▸ ⟨rfl, rfl, rfl, rfl, rfl⟩
  all_goals
    injection h with h
    exact h ▸ ⟨rfl, rfl, rfl, rfl, rfl⟩

/-- Settles O12, by the families of instructions: a faulted deframer takes no step, and the framer's instructions and the
reading commands do not touch the deframer. -/
theorem onlyResetClearsTheFault : Obligations.OnlyResetClearsTheFault := by
  intro i s t h hf
  obtain ⟨hrow, hstep, hfeed⟩ := faultedDeframerTakesNoStep s hf
  have row : i.context ≠ none → t.rxFault = true := fun hi => by
    injection (hrow i hi).symm.trans h with h
    exact h ▸ hf
  have framer (hi) : t.rxFault = true := (exec_framer_sameDeframer (i := i) hi h).1.rxFault ▸ hf
  have query (hi) : t.rxFault = true := (exec_query_sameDeframer (i := i) hi h).rxFault ▸ hf
  cases i with
  | cmdReset => exact .inr rfl
  | cmdRxStep b =>
    injection (hstep b).symm.trans h with h
    exact .inl (h ▸ hf)
  | cmdRxFeed bs =>
    injection (hfeed bs).symm.trans h with h
    exact .inl (h ▸ hf)
  | cmdTxFrame p c => exact .inl (framer (.inr (.inr (.inl ⟨p, c, rfl⟩))))
  | cmdTxEncode p => exact .inl (framer (.inr (.inr (.inr ⟨p, rfl⟩))))
  | txEscAA => exact .inl (framer (.inl rfl))
  | txEscBB => exact .inl (framer (.inl rfl))
  | txEscCC => exact .inl (framer (.inl rfl))
  | txLit x => exact .inl (framer (.inl rfl))
  | txStart => exact .inl (framer (.inr (.inl rfl)))
  | txEnd => exact .inl (framer (.inr (.inl rfl)))
  | cmdRdErrcnt => exact .inl (query (by simp))
  | cmdRdStatus => exact .inl (query (by simp))
  | cmdCsum bs => exact .inl (query (by simp))
  | cmdUnescape b => exact .inl (query (by simp))
  | cmdReframe bs => exact .inl (query (by simp))
  | _ => exact .inl (row (by simp [Instr.context]))

/-! ### The buffer (R13, R14, R15) -/

/-- R14's four occasions on which the buffer is cleared: a start marker in Idle, a resync, a completed packet, a checksum
failure; `ev` is the event that the byte `b`, served in `s`, raises. -/
def ClearingOccasion (s : State) (b : Byte) (ev : Event) : Prop :=
  (s.rxState = .idle ∧ b = 0xAA#8) ∨ (s.rxState = .inPacket ∧ b = 0xAA#8) ∨ (∃ p, ev = .packetComplete p) ∨
    ev = .badChecksum

/-- R15's two ways for `x` to enter the buffer: an ordinary byte as itself, or by its escape code. -/
def EntersBuffer (s : State) (b x : Byte) : Prop :=
  (s.rxState = .inPacket ∧ notMarker b = true ∧ x = b) ∨ (s.rxState = .inPacketEscaped ∧ unescapeByte b = some x)

/-- A step that ends no frame, on a byte that starts none, is no clearing occasion. -/
theorem not_clearingOccasion {s : State} {b : Byte} {ev : Event} (hev : ev = .none ∨ ev = .invalidEscape)
    (hb : s.rxState = .inPacketEscaped ∨ b ≠ startMarker) : ¬ClearingOccasion s b ev := by
  rcases hev with rfl | rfl <;> rcases hb with hs | hb <;> simp [ClearingOccasion, *]

/-- What one byte can do to the buffer, and when (R13, R14, R15). -/
def BufferStep (s : State) (b : Byte) (t : State) : Prop :=
  (t.rxBuf = s.rxBuf ∧ ¬ClearingOccasion s b t.event) ∨
  (t.rxBuf = [] ∧ ClearingOccasion s b t.event) ∨
  ∃ x, t.rxBuf = s.rxBuf ++ [x] ∧ EntersBuffer s b x ∧ ¬ClearingOccasion s b t.event

/-- An append is no clearing occasion; on a full buffer it leaves it as it is (R82). -/
theorem State.appendThen_bufferStep {s : State} {b x : Byte} (next : DecoderState) (he : s.event = .none)
    (hx : EntersBuffer s b x) (hb : s.rxState = .inPacketEscaped ∨ b ≠ startMarker) :
    BufferStep s b (s.appendThen x next) := by
  have hno : ¬ClearingOccasion s b (s.appendThen x next).event :=
    not_clearingOccasion (.inl (by rw [State.appendThen_event, he])) hb
  cases hfull : s.bufFull with
  | true => exact .inl ⟨by rw [State.appendThen_full hfull], hno⟩
  | false => exact .inr (.inr ⟨x, by rw [State.appendThen_room hfull], hx, hno⟩)

theorem rxStep_bufferStep {s : State} (hf : s.rxFault = false) (he : s.event = .none) (b : Byte) :
    BufferStep s b (rxStep b s) := by
  rcases rxStep_cases hf b with ⟨hs, hb, h⟩ | ⟨-, hb, h⟩ | ⟨hs, hb, h⟩ | ⟨-, rfl, -, h⟩ | ⟨p, -, -, -, h⟩ |
    ⟨p, c, -, -, -, -, h⟩ | ⟨-, rfl, h⟩ | ⟨hs, hb, h⟩ | ⟨x, hs, hb, h⟩ | ⟨hs, -, h⟩ <;> rw [h]
  · exact .inr (.inl ⟨rfl, .inl ⟨hs, hb⟩⟩)
  · exact .inl ⟨rfl, not_clearingOccasion (.inl he) (.inr hb)⟩
  · exact .inr (.inl ⟨rfl, .inr (.inl ⟨hs, hb⟩)⟩)
  · exact .inl ⟨rfl, not_clearingOccasion (.inl he) (.inr (by decide))⟩
  · exact .inr (.inl ⟨rfl, .inr (.inr (.inl ⟨p, rfl⟩))⟩)
  · exact .inr (.inl ⟨rfl, .inr (.inr (.inr rfl))⟩)
  · exact .inl ⟨rfl, not_clearingOccasion (.inl he) (.inr (by decide))⟩
  · exact State.appendThen_bufferStep _ he (.inl ⟨hs, hb, rfl⟩) (.inr (notMarker_iff.1 hb).1)
  · exact State.appendThen_bufferStep _ he (.inr ⟨hs, hb⟩) (.inl hs)
  · exact .inl ⟨rfl, not_clearingOccasion (.inr rfl) (.inl hs)⟩

theorem exec_cmdRxStep_bufferStep {s t : State} {b : Byte} (hf : s.rxFault = false)
    (h : exec (.cmdRxStep b) s = .next t) : BufferStep s b t := by
  rw [exec_cmdRxStep] at h
  injection h with h
  exact h ▸ rxStep_bufferStep (s := s.clearOutputs) hf rfl b

/-- Settles O49, by the three ways of `BufferStep`. -/
theorem bufferIsClearedOnFourOccasions : Obligations.BufferIsClearedOnFourOccasions := by
  intro s t b hf h
  rcases exec_cmdRxStep_bufferStep hf h with ⟨hbuf, hno⟩ | ⟨hbuf, hyes⟩ | ⟨x, hbuf, -, hno⟩
  · exact ⟨.inl hbuf, fun hne => iff_of_false (hbuf ▸ hne) hno⟩
  · exact ⟨.inr (.inl hbuf), fun _ => iff_of_true hbuf hyes⟩
  · exact ⟨.inr (.inr ⟨x, hbuf⟩), fun _ => iff_of_false (by simp [hbuf]) hno⟩

/-- Settles O50: the byte appended is the one that `EntersBuffer` speaks of. -/
theorem markersEnterTheBufferOnlyEscaped : Obligations.MarkersEnterTheBufferOnlyEscaped := by
  intro s t b x hf h hx
  have hin : EntersBuffer s b x := by
    rcases exec_cmdRxStep_bufferStep hf h with ⟨hbuf, -⟩ | ⟨hbuf, -⟩ | ⟨y, hbuf, hy, -⟩
    · simp [hbuf] at hx
    · simp [hbuf] at hx
    · obtain rfl : y = x := by simpa [hbuf] using hx
      exact hy
  rcases hin with ⟨hs, hb, rfl⟩ | ⟨hs, hb⟩
  · obtain ⟨hstart, hesc, hend⟩ := notMarker_iff.1 hb
    exact ⟨by rintro (rfl | rfl | rfl) <;> contradiction, fun _ _ _ => ⟨hs, rfl⟩⟩
  · refine ⟨fun _ => ⟨hs, hb⟩, fun hstart hesc hend => ?_⟩
    rcases unescapeByte_cases hb with ⟨-, rfl⟩ | ⟨-, rfl⟩ | ⟨-, rfl⟩ <;> contradiction

/-! ### The parameters (R25) -/

theorem rxStep_params (b : Byte) (s : State) : (rxStep b s).params = s.params := by
  obtain ⟨-, -, -, -, hp, -⟩ := rxStep_frame b s
  exact hp

theorem feed_params (bs : List Byte) (s : State) : (feed bs s).1.params = s.params :=
  feed_induction (P := fun u => u.params = s.params) (fun _ h => h) (fun b u h => (rxStep_params b u).trans h) bs rfl

theorem exec_decoded_params {s t : State} {tr : Transaction} {i : Instr} (hd : decode s.rxState tr = .ok i)
    (h : exec i s = .next t) : t.params = s.params := by
  rcases exec_decoded_cases hd h with ⟨b, rfl⟩ | ⟨b, r, rfl⟩ | ⟨bs, r, rfl⟩ | rfl | ⟨r, acc, rfl⟩ |
    ⟨-, r, p, c, acc, rfl⟩ | ⟨-, -, p, c, acc, rfl⟩
  · exact rxStep_params b _
  · exact rxStep_params b _
  · exact feed_params bs _
  all_goals rfl

/-- Settles O54: neither a `tx_step` nor an instruction that decodes writes the parameters. -/
theorem parametersAreFixed : Obligations.ParametersAreFixed := by
  intro s t h
  obtain ⟨rest, h | ⟨tr, i, hd, h⟩⟩ := step_cases h
  · exact (txStep_sameDeframer h).1.params.symm
  · exact exec_decoded_params (s := { s with inputs := rest }) hd h

/-! ### The invariant (R29, R111, R112) -/

/-- Settles O10: R26's values, read off `State.reset`. -/
theorem resetValues : Obligations.ResetValues := ⟨rfl, rfl, rfl, rfl, rfl, rfl, rfl, rfl, rfl⟩

theorem Limit.allows_zero (l : Limit) : l.allows 0 = true := by
  cases l <;> simp [Limit.allows]

theorem SameDeframer.rxInv {s t : State} (h : SameDeframer s t) (hs : s.RxInv) : t.RxInv where
  idleEmpty := h.rxState ▸ h.rxBuf ▸ hs.idleEmpty
  fits := h.params ▸ h.rxBuf ▸ hs.fits
  counted := h.params ▸ h.rxErrcnt ▸ hs.counted

theorem SameFramer.txInv {s t : State} (h : SameFramer s t) (hp : t.params = s.params) (hs : s.TxInv) : t.TxInv where
  sourceWaits := h.txState ▸ h.txQ ▸ hs.sourceWaits
  sourceSpent := h.txState ▸ h.txQ ▸ hs.sourceSpent
  holdsCode := h.txState ▸ h.txHold ▸ hs.holdsCode
  functionIdle := hp ▸ h.txState ▸ hs.functionIdle

/-- An empty buffer meets R29 (I-b) and (I-c) in every `rx_state`. -/
theorem State.RxInv.of_empty {s : State} (hb : s.rxBuf = []) (hc : s.params.errcntMax.allows s.rxErrcnt = true) :
    s.RxInv :=
  ⟨fun _ => hb, hb ▸ Memory.wf_nil _, hc⟩

/-- An append happens inside a frame and leaves the deframer there. -/
theorem State.RxInv.appendThen {s : State} (h : s.RxInv) (hs : s.rxState ≠ .idle) (b : Byte) :
    (s.appendThen b .inPacket).RxInv where
  idleEmpty hidle := by
    cases hb : s.bufFull with
    | true => rw [State.appendThen_full hb] at hidle; exact absurd hidle hs
    | false => rw [State.appendThen_room hb] at hidle; cases hidle
  fits := by rw [State.appendThen_params]; exact State.appendThen_wf h.fits b _
  counted := by rw [State.appendThen_params, State.appendThen_rxErrcnt]; exact h.counted

theorem State.RxInv.takeEvent {s : State} (h : s.RxInv) (e : Event) (d : List Byte) : (s.takeEvent e d).RxInv := by
  cases e with
  | none => exact h
  | packetComplete p => exact .of_empty rfl (Limit.allows_zero _)
  | badChecksum => exact .of_empty rfl (saturate_allows _ _)
  | invalidEscape => exact ⟨nofun, h.fits, saturate_allows _ _⟩
  | resync => exact .of_empty rfl h.counted

theorem State.RxInv.rxStep {s : State} (h : s.RxInv) (b : Byte) : (rxStep b s).RxInv := by
  have hacc {a : Byte} : State.RxInv { s with csumAcc := a } := ⟨h.idleEmpty, h.fits, h.counted⟩
  cases hf : s.rxFault with
  | true => rw [rxStep_faulted hf]; exact h
  | false =>
    rcases rxStep_cases hf b with ⟨-, -, ht⟩ | ⟨-, -, ht⟩ | ⟨-, -, ht⟩ | ⟨-, -, -, ht⟩ | ⟨p, -, -, -, ht⟩ |
      ⟨p, c, -, -, -, -, ht⟩ | ⟨-, -, ht⟩ | ⟨hs, -, ht⟩ | ⟨x, hs, -, ht⟩ | ⟨-, -, ht⟩ <;> rw [ht]
    · exact .of_empty rfl h.counted
    · exact h
    · exact h.takeEvent _ _
    · exact h
    · exact hacc.takeEvent _ _
    · exact hacc.takeEvent _ _
    · exact ⟨nofun, h.fits, h.counted⟩
    · exact h.appendThen (by simp [hs]) b
    · exact h.appendThen (by simp [hs]) x
    · exact h.takeEvent _ _

/-- The invariant does not speak of the outputs, the records, the scratch accumulator or what the host has presented. -/
theorem State.Inv.congr {s t : State} (h : s.Inv) (hd : SameDeframer s t) (hf : SameFramer s t) : t.Inv :=
  ⟨hd.params ▸ h.legal, hd.rxInv h.rx, hf.txInv hd.params.symm h.tx⟩

theorem State.Inv.rxStep {s : State} (h : s.Inv) (b : Byte) : (rxStep b s).Inv :=
  ⟨rxStep_params b s ▸ h.legal, h.rx.rxStep b, (rxStep_sameFramer b s).txInv (rxStep_params b s) h.tx⟩

theorem State.Inv.feed {s : State} (h : s.Inv) (bs : List Byte) : (feed bs s).1.Inv :=
  feed_induction (P := State.Inv)
    (fun _ h => h.congr ⟨rfl, rfl, rfl, rfl, rfl⟩ ⟨rfl, rfl, rfl, rfl⟩) (fun b _ h => h.rxStep b) bs h

/-- A block at its reset values meets the invariant, whatever its legal parameters (R26, R190). -/
theorem State.resetBlock_inv {s : State} (h : s.params.legal = true) : s.resetBlock.Inv where
  legal := h
  rx := .of_empty rfl (Limit.allows_zero _)
  tx := ⟨fun hs => hs.elim nofun nofun, fun _ => rfl, nofun, fun _ => rfl⟩

/-- Settles O9: the reset state is the reset of itself. -/
theorem resetMeetsTheInvariant : Obligations.ResetMeetsTheInvariant := State.resetBlock_inv (s := State.reset) rfl

theorem notEscapeCode_escCode {x c : Byte} (h : escCode x = some c) : notEscapeCode c = false := by
  rcases esc_cases x with ⟨c', hc', -, hu⟩ | ⟨hn, -, -⟩
  · obtain rfl : c' = c := by simpa [hc'] using h
    rw [← Bool.not_eq_true, notEscapeCode_iff, hu]
    nofun
  · simp [hn] at h

/-- After a source byte the framer goes on with the body or with the end marker, by whether any byte waits (R112). -/
theorem State.TxInv.of_afterSourceByte {s : State} (h : s.txState = afterSourceByte s.txQ)
    (hl : s.params.framer ≠ .function) : s.TxInv := by
  cases hq : s.txQ with
  | nil => constructor <;> simp [h, hq, hl, afterSourceByte]
  | cons x q => constructor <;> simp [h, hq, hl, afterSourceByte]

theorem State.TxInv.txStep {s t : State} (h : s.TxInv) (ht : txStep s = .next t) : t.TxInv := by
  have sending : s.txState ≠ .txIdle → s.params.framer ≠ .function := fun hs hl => hs (h.functionIdle hl)
  rcases txStep_cases ht with ⟨-, rfl⟩ | ⟨hs, rfl⟩ | ⟨x, q, c, hs, hq, hc, rfl⟩ | ⟨x, q, hs, hq, hc, rfl⟩ | ⟨hs, rfl⟩ |
    ⟨hs, rfl⟩
  · exact h
  · have hl := sending (by simp [hs])
    exact ⟨fun _ => h.sourceWaits (.inl hs), by simp, nofun, fun hf => absurd hf hl⟩
  · have hl := sending (by simp [hs])
    exact ⟨by simp, by simp, fun _ => notEscapeCode_escCode hc, fun hf => absurd hf hl⟩
  · exact .of_afterSourceByte rfl (sending (by simp [hs]))
  · exact .of_afterSourceByte rfl (sending (by simp [hs]))
  · exact ⟨by simp, fun _ => h.sourceSpent (.inl hs), nofun, fun _ => rfl⟩

theorem State.Inv.txStep {s t : State} (h : s.Inv) (ht : txStep s = .next t) : t.Inv := by
  obtain ⟨hd, -⟩ := txStep_sameDeframer ht
  exact ⟨hd.params ▸ h.legal, hd.rxInv h.rx, h.tx.txStep ht⟩

theorem State.Inv.exec_decoded {s t : State} (h : s.Inv) {tr : Transaction} {i : Instr}
    (hd : decode s.rxState tr = .ok i) (ht : exec i s = .next t) : t.Inv := by
  have hclear : s.clearOutputs.Inv := h.congr ⟨rfl, rfl, rfl, rfl, rfl⟩ ⟨rfl, rfl, rfl, rfl⟩
  have hrx : ∀ {u : State}, SameDeframer s u → u.RxInv := fun hu => hu.rxInv h.rx
  rcases exec_decoded_cases hd ht with ⟨b, rfl⟩ | ⟨b, r, rfl⟩ | ⟨bs, r, rfl⟩ | rfl | ⟨r, acc, rfl⟩ |
    ⟨-, r, p, c, acc, rfl⟩ | ⟨hl, -, p, c, acc, rfl⟩
  · exact hclear.rxStep b
  · exact (hclear.rxStep b).congr ⟨rfl, rfl, rfl, rfl, rfl⟩ ⟨rfl, rfl, rfl, rfl⟩
  · exact (hclear.feed bs).congr ⟨rfl, rfl, rfl, rfl, rfl⟩ ⟨rfl, rfl, rfl, rfl⟩
  · exact State.resetBlock_inv h.legal
  · exact h.congr ⟨rfl, rfl, rfl, rfl, rfl⟩ ⟨rfl, rfl, rfl, rfl⟩
  · obtain ⟨hwaits, hspent, hcode, hidle⟩ := h.tx
    exact ⟨h.legal, hrx ⟨rfl, rfl, rfl, rfl, rfl⟩, ⟨hwaits, hspent, hcode, hidle⟩⟩
  · exact ⟨h.legal, hrx ⟨rfl, rfl, rfl, rfl, rfl⟩, ⟨by simp, by simp, nofun, by simp [hl]⟩⟩

/-- Settles O8: a step is a `tx_step` or an instruction that decodes, on the state without the move served. -/
theorem stepKeepsTheInvariant : Obligations.StepKeepsTheInvariant := by
  intro s t hinv h
  obtain ⟨rest, hmove⟩ := step_cases h
  have hserved : State.Inv { s with inputs := rest } := hinv.congr ⟨rfl, rfl, rfl, rfl, rfl⟩ ⟨rfl, rfl, rfl, rfl⟩
  rcases hmove with h | ⟨tr, i, hd, h⟩
  · exact hserved.txStep h
  · exact hserved.exec_decoded hd h

end Sys2Proof.Machine
end

section
/-! PROOFS of the family 20_memory.md: the streams EVS and TXS, which only grow, and the frames on TXS, which are never
interleaved. -/

namespace Sys2Proof.Machine

/-! ### The streams (R38, R41 (b)) -/

/-- Both streams of `t` are those of `s` with something added at the end, if anything. -/
structure StreamsGrow (s t : State) : Prop where
  evs : s.evs <+: t.evs
  txs : s.txs <+: t.txs

theorem StreamsGrow.trans {s t u : State} (h : StreamsGrow s t) (h' : StreamsGrow t u) : StreamsGrow s u :=
  ⟨h.evs.trans h'.evs, h.txs.trans h'.txs⟩

/-- An operation that leaves both streams as they are. -/
theorem StreamsGrow.of_eq {s t : State} (hevs : t.evs = s.evs) (htxs : t.txs = s.txs) : StreamsGrow s t :=
  ⟨⟨[], by simp [hevs]⟩, ⟨[], by simp [htxs]⟩⟩

/-- An operation that leaves EVS as it is and adds the bytes `bs` to TXS. -/
theorem StreamsGrow.of_emitted {s t : State} {bs : List Byte} (hevs : t.evs = s.evs) (htxs : t.txs = s.txs ++ bs) :
    StreamsGrow s t :=
  ⟨⟨[], by simp [hevs]⟩, bs, htxs.symm⟩

theorem rxStep_streamsGrow (b : Byte) (s : State) : StreamsGrow s (rxStep b s) := by
  obtain ⟨-, -, -, htxs, -, -, -, es, hevs⟩ := rxStep_frame b s
  exact ⟨⟨es, hevs.symm⟩, ⟨[], by simp [htxs]⟩⟩

theorem feed_streamsGrow (bs : List Byte) (s : State) : StreamsGrow s (feed bs s).1 :=
  feed_induction (P := StreamsGrow s) (fun _ h => h.trans (.of_eq rfl rfl))
    (fun b u h => h.trans (rxStep_streamsGrow b u)) bs (.of_eq rfl rfl)

theorem txStep_streamsGrow {s t : State} (h : txStep s = .next t) : StreamsGrow s t := by
  rcases txStep_cases h with ⟨-, rfl⟩ | ⟨-, rfl⟩ | ⟨x, q, c, -, -, -, rfl⟩ | ⟨x, q, -, -, -, rfl⟩ | ⟨-, rfl⟩ | ⟨-, rfl⟩
  · exact .of_eq rfl rfl
  all_goals exact .of_emitted rfl rfl

theorem exec_decoded_streamsGrow {s t : State} {tr : Transaction} {i : Instr} (hd : decode s.rxState tr = .ok i)
    (h : exec i s = .next t) : StreamsGrow s t := by
  have hclear : StreamsGrow s s.clearOutputs := .of_eq rfl rfl
  rcases exec_decoded_cases hd h with ⟨b, rfl⟩ | ⟨b, r, rfl⟩ | ⟨bs, r, rfl⟩ | rfl | ⟨r, acc, rfl⟩ |
    ⟨-, r, p, c, acc, rfl⟩ | ⟨-, -, p, c, acc, rfl⟩
  · exact hclear.trans (rxStep_streamsGrow b _)
  · exact (hclear.trans (rxStep_streamsGrow b _)).trans (.of_eq rfl rfl)
  · exact (hclear.trans (feed_streamsGrow bs _)).trans (.of_eq rfl rfl)
  · exact .of_eq rfl rfl
  · exact .of_eq rfl rfl
  · exact .of_emitted rfl rfl
  · exact .of_eq rfl rfl

/-- Settles O53: both streams grow over a `tx_step` and over every instruction that decodes. -/
theorem streamsOnlyGrow : Obligations.StreamsOnlyGrow := by
  intro s t h
  obtain ⟨rest, hmove⟩ := step_cases h
  have hgrow : StreamsGrow { s with inputs := rest } t := by
    rcases hmove with h | ⟨tr, i, hd, h⟩
    · exact txStep_streamsGrow h
    · exact exec_decoded_streamsGrow hd h
  obtain ⟨⟨es, hevs⟩, bs, htxs⟩ := hgrow
  exact ⟨es, bs, hevs.symm, htxs.symm⟩

/-! ### What each instruction does to the framer and to TXS -/

/-- The families of instructions by what they do to the framer: the deframer's, the TX rows, the frame commands, the
reset, and the commands that only read or only compute. -/
theorem framer_families (i : Instr) :
    (i.context ≠ none ∨ (∃ b, i = .cmdRxStep b) ∨ ∃ bs, i = .cmdRxFeed bs) ∨
    (i.format = .tx1 ∨ i.format = .tx0) ∨
    ((∃ p c, i = .cmdTxFrame p c) ∨ ∃ p, i = .cmdTxEncode p) ∨
    i = .cmdReset ∨
    (i = .cmdRdErrcnt ∨ i = .cmdRdStatus ∨ (∃ bs, i = .cmdCsum bs) ∨ (∃ b, i = .cmdUnescape b) ∨
      ∃ bs, i = .cmdReframe bs) := by
  cases i <;> simp [Instr.context, Instr.format]

/-- The commands that only read, or only compute (R151 to R155), write the result and at most the scratch accumulator. -/
theorem query_cases {i : Instr} {s t : State}
    (hi : i = .cmdRdErrcnt ∨ i = .cmdRdStatus ∨ (∃ bs, i = .cmdCsum bs) ∨ (∃ b, i = .cmdUnescape b) ∨
      ∃ bs, i = .cmdReframe bs) (h : exec i s = .next t) :
    ∃ r acc, t = { s.clearOutputs with result := r, csumAcc := acc } := by
  rcases hi with rfl | rfl | ⟨bs, rfl⟩ | ⟨b, rfl⟩ | ⟨bs, rfl⟩
  case inr.inr.inl =>
    simp only [exec, execCmdCsum, State.runChecksum_eq] at h
    injection h with h
    exact ⟨_, _, h.symm⟩
  all_goals
    injection h with h
    exact ⟨_, s.csumAcc, h.symm⟩

/-- Everything an instruction can do to the framer and to TXS: nothing, the reset, one whole frame emitted at the
function level, or one whole frame taken by the idle byte-serial framer (R106, R111, R113, R190). -/
theorem exec_framer_cases {i : Instr} {s t : State} (h : exec i s = .next t) :
    SameFramer s t ∨
    (i = .cmdReset ∧ t = s.resetBlock) ∨
    (s.params.framer = .function ∧ ∃ p c, t.txs = s.txs ++ escapeAndFrame p c) ∨
    (s.params.framer = .byteSerial ∧ s.txState = .txIdle ∧ ∃ p c, t.txs = s.txs ∧ t.toSend = escapeAndFrame p c) := by
  rcases framer_families i with hi | hi | hi | rfl | hi
  · exact .inl (exec_deframer_sameFramer hi h)
  · obtain ⟨bs, rfl⟩ := txRow_cases hi h
    exact .inl ⟨rfl, rfl, rfl, rfl⟩
  · rcases frameCommand_cases hi h with ⟨-, rfl⟩ | ⟨hl, r, p, c, acc, rfl⟩ | ⟨hl, hs, p, c, acc, rfl⟩
    · exact .inl ⟨rfl, rfl, rfl, rfl⟩
    · exact .inr (.inr (.inl ⟨hl, p, c, rfl⟩))
    · exact .inr (.inr (.inr ⟨hl, hs, p, c, rfl, rfl⟩))
  · injection h with h
    exact .inr (.inl ⟨rfl, h.symm⟩)
  · obtain ⟨r, acc, rfl⟩ := query_cases hi h
    exact .inl ⟨rfl, rfl, rfl, rfl⟩

/-! ### What is still to be sent of a frame (R112) -/

theorem SameFramer.toSend {s t : State} (h : SameFramer s t) : t.toSend = s.toSend := by
  unfold State.toSend
  rw [h.txState, h.txQ, h.txHold]

theorem State.toSend_of_txIdle {s : State} (h : s.txState = .txIdle) : s.toSend = [] := by
  simp [State.toSend, h]

/-- After a source byte the rest of the body and the end marker are still to be sent, whether any byte waits or not. -/
theorem State.toSend_of_afterSourceByte {s : State} (h : s.txState = afterSourceByte s.txQ) :
    s.toSend = escSeq s.txQ ++ [endMarker] := by
  cases hq : s.txQ with
  | nil => simp [State.toSend, h, hq, afterSourceByte]
  | cons x q => simp [State.toSend, h, hq, afterSourceByte]

/-- A `tx_step` moves the next byte to be sent onto TXS (R112). -/
theorem txStep_txs_append_toSend {s t : State} (h : txStep s = .next t) :
    t.txs ++ t.toSend = s.txs ++ s.toSend := by
  rcases txStep_cases h with ⟨-, rfl⟩ | ⟨hs, rfl⟩ | ⟨x, q, c, hs, hq, hc, rfl⟩ | ⟨x, q, hs, hq, hc, rfl⟩ | ⟨hs, rfl⟩ |
    ⟨hs, rfl⟩
  · rfl
  · simp [State.toSend, hs]
  · have hesc : esc x = [escMarker, c] := by simp [esc, hc]
    simp [State.toSend, hs, hq, hesc]
  · have hesc : esc x = [x] := by simp [esc, hc]
    rw [State.toSend_of_afterSourceByte rfl]
    simp [State.toSend, hs, hq, hesc]
  · rw [State.toSend_of_afterSourceByte rfl]
    simp [State.toSend, hs]
  · simp [State.toSend, hs]

/-! ### Whole frames on TXS (R41 (d)) -/

/-- At the function level a step adds at most one frame to TXS, and adds it whole. -/
theorem step_function_txs {s t : State} (hinv : s.Inv) (hl : s.params.framer = .function) (h : step s = .next t) :
    t.txs = s.txs ∨ ∃ p c, t.txs = s.txs ++ escapeAndFrame p c := by
  obtain ⟨rest, h | ⟨tr, i, -, h⟩⟩ := step_cases h
  · have hidle : s.txState = .txIdle := hinv.tx.functionIdle hl
    simp only [txStep, hidle] at h
    injection h with h
    exact .inl (h ▸ rfl)
  · rcases exec_framer_cases h with hsame | ⟨-, rfl⟩ | ⟨-, hframe⟩ | ⟨hserial, -⟩
    · exact .inl hsame.txs.symm
    · exact .inl rfl
    · exact .inr hframe
    · exact absurd (hl.symm.trans hserial) (by decide)

/-- At the byte-serial level a step keeps TXS with what is still to be sent, unless it takes a frame or resets. -/
theorem step_byteSerial_toSend_cases {s t : State} (hl : s.params.framer = .byteSerial) (h : step s = .next t) :
    t.txs ++ t.toSend = s.txs ++ s.toSend ∨
    (s.toSend = [] ∧ ∃ p c, t.txs = s.txs ∧ t.toSend = escapeAndFrame p c) ∨
    (t = { s.resetBlock with inputs := t.inputs } ∧ t.txs = s.txs ∧ t.toSend = []) := by
  obtain ⟨rest, h | ⟨tr, i, -, h⟩⟩ := step_cases h
  · have hkept := txStep_txs_append_toSend h
    exact .inl hkept
  · rcases exec_framer_cases h with hsame | ⟨-, rfl⟩ | ⟨hfun, -⟩ | ⟨-, hidle, p, c, htxs, hsend⟩
    · exact .inl (congrArg₂ (· ++ ·) hsame.txs.symm hsame.toSend)
    · exact .inr (.inr ⟨rfl, rfl, rfl⟩)
    · exact absurd (hfun.symm.trans hl) (by decide)
    · exact .inr (.inl ⟨State.toSend_of_txIdle hidle, p, c, htxs, hsend⟩)

/-- While a frame is being sent every instruction but CMD.RESET leaves the framer and TXS alone (R113). -/
theorem exec_busy_sameFramer {i : Instr} {s t : State} (hb : s.framerBusy = true) (h : exec i s = .next t)
    (hi : i ≠ .cmdReset) : SameFramer s t := by
  obtain ⟨hserial, hsending⟩ := State.framerBusy_iff.1 hb
  rcases exec_framer_cases h with hsame | ⟨hreset, -⟩ | ⟨hfun, -⟩ | ⟨-, hidle, -⟩
  · exact hsame
  · exact absurd hreset hi
  · exact absurd (hfun.symm.trans hserial) (by decide)
  · exact absurd hidle hsending

/-- Settles O34, level by level, and for the framer that is sending. -/
theorem framesAreNeverInterleaved : Obligations.FramesAreNeverInterleaved := by
  refine ⟨fun s t hinv hl h => ?_, fun _ _ _ => step_byteSerial_toSend_cases, fun i s t hb h hi => ?_⟩
  · rcases step_function_txs hinv hl h with htxs | ⟨p, c, htxs⟩
    · exact ⟨[], by simp [htxs]⟩
    · exact ⟨[(p, c)], by simp [htxs]⟩
  · obtain ⟨hstate, hq, hhold, htxs⟩ := exec_busy_sameFramer hb h hi
    exact ⟨htxs.symm, hstate.symm, hq.symm, hhold.symm⟩

end Sys2Proof.Machine
end

section
/-! PROOFS of the family 30_encoding.md: the decoder and the encoder, which undo each other; the table's reading rule;
when a step stops; and the frames on the wire. -/

namespace Sys2Proof.Machine

/-! ### The ports (R63) -/

theorem oneByte_eq_ok {p : Port} {k : Byte → Instr} {data : List Byte} {i : Instr} :
    oneByte p k data = .ok i ↔ ∃ b, data = [b] ∧ k b = i := by
  rcases data with _ | ⟨b, _ | ⟨b', data⟩⟩ <;> simp [oneByte]

theorem noOperand_eq_ok {p : Port} {i i' : Instr} {data : List Byte} :
    noOperand p i data = .ok i' ↔ data = [] ∧ i = i' := by
  cases data <;> simp [noOperand]

@[simp] theorem payloadAndChecksum_append (p : Port) (k : List Byte → Byte → Instr) (q : List Byte) (c : Byte) :
    payloadAndChecksum p k (q ++ [c]) = .ok (k q c) := by
  simp [payloadAndChecksum]

theorem payloadAndChecksum_eq_ok {p : Port} {k : List Byte → Byte → Instr} {data : List Byte} {i : Instr} :
    payloadAndChecksum p k data = .ok i ↔ ∃ q c, data = q ++ [c] ∧ k q c = i := by
  constructor
  · rcases List.eq_nil_or_concat data with rfl | ⟨q, c, rfl⟩
    · exact nofun
    · rw [List.concat_eq_append, payloadAndChecksum_append, Except.ok.injEq]
      exact fun h => ⟨q, c, rfl, h⟩
  · rintro ⟨q, c, rfl, rfl⟩
    exact payloadAndChecksum_append p k q c

/-! ### The rows of the received and of the source bytes (R54) -/

theorem encode_classifyRx (ctx : DecoderState) (b : Byte) :
    encode (classifyRx ctx b) = { port := .rxs, data := [b] } := by
  cases ctx <;> simp only [classifyRx] <;> split_ifs <;> simp [encode, *]

@[simp] theorem context_classifyRx (ctx : DecoderState) (b : Byte) : (classifyRx ctx b).context = some ctx := by
  cases ctx <;> simp only [classifyRx] <;> split_ifs <;> rfl

@[simp] theorem wellFormed_classifyRx (ctx : DecoderState) (b : Byte) : (classifyRx ctx b).wellFormed = true := by
  cases ctx <;> simp only [classifyRx] <;> split_ifs <;> simp [Instr.wellFormed, notMarker, notEscapeCode, *]

theorem encode_classifyTx (x : Byte) : encode (classifyTx x) = { port := .src, data := [x] } := by
  unfold classifyTx
  split_ifs <;> simp [encode, *]

@[simp] theorem context_classifyTx (x : Byte) : (classifyTx x).context = none := by
  unfold classifyTx
  split_ifs <;> rfl

@[simp] theorem wellFormed_classifyTx (x : Byte) : (classifyTx x).wellFormed = true := by
  unfold classifyTx
  split_ifs <;> simp [Instr.wellFormed, notMarker, *]

/-- A well-formed RX row is the row that its byte selects in its context: an exact row by its byte, an "any other" row
because it carries no exact row's byte (R63). -/
theorem exists_eq_classifyRx {i : Instr} {ctx : DecoderState} (hc : i.context = some ctx) (hw : i.wellFormed = true) :
    ∃ b, i = classifyRx ctx b := by
  cases i <;> simp only [Instr.context, Option.some.injEq, reduceCtorEq] at hc <;> subst hc
  case rxIdleOther b | rxPktData b =>
    obtain ⟨hstart, hesc, hend⟩ := notMarker_iff.1 hw
    exact ⟨b, by simp [classifyRx, hstart, hesc, hend]⟩
  case rxEscInvalid b =>
    have hb : b ≠ codeOfStart ∧ b ≠ codeOfEsc ∧ b ≠ codeOfEnd := by
      simpa [Instr.wellFormed, notEscapeCode, and_assoc] using hw
    exact ⟨b, by simp [classifyRx, hb]⟩
  case rxIdleStart | rxPktStart => exact ⟨startMarker, rfl⟩
  case rxIdleEnd | rxPktEnd => exact ⟨endMarker, rfl⟩
  case rxIdleEsc | rxPktEsc => exact ⟨escMarker, rfl⟩
  case rxEsc55 => exact ⟨codeOfStart, rfl⟩
  case rxEsc44 => exact ⟨codeOfEsc, rfl⟩
  case rxEsc33 => exact ⟨codeOfEnd, rfl⟩

/-- A well-formed TX1 row is the row that its source byte selects (R63). -/
theorem exists_eq_classifyTx {i : Instr} (hf : i.format = .tx1) (hw : i.wellFormed = true) : ∃ x, i = classifyTx x := by
  cases i <;> simp only [Instr.format, reduceCtorEq] at hf
  case txLit x =>
    obtain ⟨hstart, hesc, hend⟩ := notMarker_iff.1 hw
    exact ⟨x, by simp [classifyTx, hstart, hesc, hend]⟩
  case txEscAA => exact ⟨startMarker, rfl⟩
  case txEscBB => exact ⟨escMarker, rfl⟩
  case txEscCC => exact ⟨endMarker, rfl⟩

/-! ### The decoder and the encoder (R54, R60, R63) -/

theorem decode_rxs (ctx : DecoderState) (b : Byte) :
    decode ctx { port := .rxs, data := [b] } = .ok (classifyRx ctx b) := rfl

theorem decode_src (ctx : DecoderState) (x : Byte) :
    decode ctx { port := .src, data := [x] } = .ok (classifyTx x) := rfl

/-- What needs no context is a TX row or a command (R60). -/
theorem format_of_context_none {i : Instr} (h : i.context = none) :
    i.format = .tx1 ∨ i.format = .tx0 ∨ i.format = .cmd := by
  cases i <;> simp [Instr.context, Instr.format] at h ⊢

/-- The frame positions and the commands are read by their ports alone (R63). -/
theorem decode_encode_port {i : Instr} (hf : i.format = .tx0 ∨ i.format = .cmd) (ctx : DecoderState) :
    decode ctx (encode i) = .ok i := by
  cases i <;> simp only [Instr.format, reduceCtorEq, or_self] at hf
  case cmdTxFrame p c => exact payloadAndChecksum_append _ _ p c
  all_goals rfl

/-- Settles O3, by format: a row is the one that its own byte selects, and a command is read by its port. -/
theorem decodeReadsBackEveryEncoding : Obligations.DecodeReadsBackEveryEncoding := by
  rintro i ctx hw (hc | hc)
  · rcases format_of_context_none hc with hf | hf
    · obtain ⟨x, rfl⟩ := exists_eq_classifyTx hf hw
      rw [encode_classifyTx, decode_src]
    · exact decode_encode_port hf ctx
  · obtain ⟨b, rfl⟩ := exists_eq_classifyRx hc hw
    rw [encode_classifyRx, decode_rxs]

/-- Settles O4, port by port. -/
theorem encodingReadsBackEveryDecode : Obligations.EncodingReadsBackEveryDecode := by
  rintro ctx ⟨port, data⟩ i h
  cases port
  case rxs =>
    obtain ⟨b, rfl, rfl⟩ := oneByte_eq_ok.1 h
    exact ⟨encode_classifyRx ctx b, wellFormed_classifyRx ctx b, .inr (context_classifyRx ctx b)⟩
  case src =>
    obtain ⟨x, rfl, rfl⟩ := oneByte_eq_ok.1 h
    exact ⟨encode_classifyTx x, wellFormed_classifyTx x, .inl (context_classifyTx x)⟩
  case rxStep | unescape =>
    obtain ⟨b, rfl, rfl⟩ := oneByte_eq_ok.1 h
    exact ⟨rfl, rfl, .inl rfl⟩
  case frameStart | frameEnd | reset | rdErrcnt | rdStatus =>
    obtain ⟨rfl, rfl⟩ := noOperand_eq_ok.1 h
    exact ⟨rfl, rfl, .inl rfl⟩
  case txFrame =>
    obtain ⟨p, c, rfl, rfl⟩ := payloadAndChecksum_eq_ok.1 h
    exact ⟨rfl, rfl, .inl rfl⟩
  case rxFeed | txEncode | csum | reframe =>
    injection h with h
    exact h ▸ ⟨rfl, rfl, .inl rfl⟩

/-- Settles O1: the decoder run on each presentation. -/
theorem listedBytesDecode : Obligations.ListedBytesDecode :=
  ⟨rfl, rfl, rfl, rfl, rfl, rfl, rfl, rfl, rfl, rfl⟩

/-! ### The table's reading rule (R63) -/

/-- A row whose mask has every bit set applies to its own byte only. -/
@[simp] theorem applies_fullMask (ctx : Option DecoderState) (m b : Byte) (n : Nat) (k : Byte → Instr) :
    TableRow.applies ⟨ctx, m, 0xFF#8, n, k⟩ b = decide (b = m) := by
  have hmask : b &&& 0xFF#8 = b := BitVec.and_allOnes
  simp only [TableRow.applies, hmask]

/-- A row whose mask has no bit set applies to every byte. -/
@[simp] theorem applies_emptyMask (ctx : Option DecoderState) (b : Byte) (n : Nat) (k : Byte → Instr) :
    TableRow.applies ⟨ctx, 0x00#8, 0x00#8, n, k⟩ b = true := by
  simp [TableRow.applies]

/-- The search of three exact rows and an "any other" row: by the exact bytes in their order, else the last row (R63). -/
theorem head_applicable (ctx : Option DecoderState) (m₁ m₂ m₃ : Byte) (i₁ i₂ i₃ : Instr) (k : Byte → Instr) (b : Byte) :
    ((applicable [⟨ctx, m₁, 0xFF#8, 0, fun _ => i₁⟩, ⟨ctx, m₂, 0xFF#8, 0, fun _ => i₂⟩,
        ⟨ctx, m₃, 0xFF#8, 0, fun _ => i₃⟩, ⟨ctx, 0x00#8, 0x00#8, 1, k⟩] b).head?.map fun r => r.instr b) =
      some (if b = m₁ then i₁ else if b = m₂ then i₂ else if b = m₃ then i₃ else k b) := by
  simp only [applicable, List.filter_cons, List.filter_nil, applies_fullMask, applies_emptyMask, decide_true,
    decide_false, Bool.and_true, Bool.and_false, decide_eq_true_eq, Bool.false_eq_true, zero_ne_one, one_ne_zero,
    if_true, if_false]
  split_ifs <;> rfl

/-- The search of the table finds the row that R54's map of received bytes names. -/
theorem lookupRow_rx (ctx : DecoderState) (b : Byte) : lookupRow (some ctx) b = some (classifyRx ctx b) := by
  cases ctx <;> exact head_applicable _ _ _ _ _ _ _ _ b

/-- The search of the table finds the row that R54's map of source bytes names. -/
theorem lookupRow_tx (x : Byte) : lookupRow none x = some (classifyTx x) :=
  head_applicable _ _ _ _ _ _ _ _ x

/-- Settles O2: decoder and table both give the row of R54's map. -/
theorem everyByteSelectsItsTableRow : Obligations.EveryByteSelectsItsTableRow :=
  ⟨fun ctx b => ⟨classifyRx ctx b, decode_rxs ctx b, lookupRow_rx ctx b, context_classifyRx ctx b,
      wellFormed_classifyRx ctx b⟩,
    fun ctx x => ⟨classifyTx x, decode_src ctx x, lookupRow_tx x, context_classifyTx x, wellFormed_classifyTx x⟩⟩

/-! ### The step (R61, R70, R112) -/

theorem step_of_no_inputs {s : State} (h : s.inputs = []) : step s = txStep s := by
  simp [step, State.nextMove, h]

theorem step_of_txStep {s : State} {rest : List Move} (h : s.inputs = .txStep :: rest) :
    step s = txStep { s with inputs := rest } := by
  simp [step, State.nextMove, h]

theorem step_of_decoded {s : State} {t : Transaction} {rest : List Move} {i : Instr}
    (h : s.inputs = .present t :: rest) (hd : decode s.rxState t = .ok i) : step s = exec i { s with inputs := rest } := by
  simp [step, State.nextMove, h, hd]

theorem step_of_malformed {s : State} {t : Transaction} {rest : List Move} {e : DecodeError}
    (h : s.inputs = .present t :: rest) (hd : decode s.rxState t = .error e) : step s = .refused (.malformed e) := by
  simp [step, State.nextMove, h, hd]

/-- Settles O5, by the three heads of the queue. -/
theorem stepRunsThePresentedInstruction : Obligations.StepRunsThePresentedInstruction :=
  ⟨fun _ _ _ _ h hd _ => step_of_decoded h hd, fun _ _ => step_of_txStep, fun _ => step_of_no_inputs⟩

/-- An instruction in a context that suits it has a next state (R61, R70). -/
theorem exec_next_of_fitsContext {i : Instr} {s : State} (h : i.fitsContext s.rxState) : ∃ t, exec i s = .next t := by
  rcases h with hc | hc
  · cases i <;> simp only [Instr.context, reduceCtorEq] at hc
    case cmdTxFrame p c => cases hb : s.framerBusy <;> exact ⟨_, by simp only [exec, execCmdTxFrame, hb]; rfl⟩
    case cmdTxEncode p => cases hb : s.framerBusy <;> exact ⟨_, by simp only [exec, execCmdTxEncode, hb]; rfl⟩
    all_goals exact ⟨_, rfl⟩
  · rw [exec_eq_runRx hc]
    cases hf : s.rxFault with
    | true => exact ⟨_, runRx_faulted hf _ _⟩
    | false => exact ⟨_, runRx_next hf rfl _⟩

/-- What a step does: a framer move, a next state of an instruction, or the refusal of what is no transaction. -/
theorem step_total (s : State) :
    (∃ rest, step s = txStep { s with inputs := rest }) ∨ (∃ u, step s = .next u) ∨
      ∃ t e rest, s.inputs = .present t :: rest ∧ decode s.rxState t = .error e ∧ step s = .refused (.malformed e) := by
  rcases hi : s.inputs with _ | ⟨t | _, rest⟩
  · exact .inl ⟨[], by rw [step_of_no_inputs hi, ← hi]⟩
  · cases hd : decode s.rxState t with
    | error e => exact .inr (.inr ⟨t, e, rest, rfl, hd, step_of_malformed hi hd⟩)
    | ok i =>
      obtain ⟨-, -, hfit⟩ := encodingReadsBackEveryDecode s.rxState t i hd
      rw [step_of_decoded hi hd]
      exact .inr (.inl (exec_next_of_fitsContext hfit))
  · exact .inl ⟨rest, step_of_txStep hi⟩

/-- Settles O6: an instruction that decodes suits its context (O4), so it has a next state; what is left is the refusal of
a presentation that does not decode, and the fault of a `tx_step`. -/
theorem stepStopsOnlyOnMalformedInputOrEmptyQueue : Obligations.StepStopsOnlyOnMalformedInputOrEmptyQueue := by
  refine ⟨fun s r h => ?_, fun s f h => ?_⟩ <;>
    rcases step_total s with ⟨rest, hs⟩ | ⟨u, hs⟩ | ⟨t, e, rest, hi, hd, hs⟩ <;> rw [hs] at h
  · rcases txStep_total { s with inputs := rest } with ⟨u, ht⟩ | ⟨-, -, ht⟩ <;> rw [ht] at h <;> cases h
  · cases h
  · injection h with h
    exact ⟨t, e, rest, hi, hd, h.symm⟩
  · rcases txStep_total { s with inputs := rest } with ⟨u, ht⟩ | ⟨hbody, hq, ht⟩ <;> rw [ht] at h <;> cases h
    exact ⟨rfl, hbody, hq⟩
  · cases h
  · cases h

/-! ### Escaping and its inverse (R53, R64, R100) -/

theorem esc_of_notMarker {x : Byte} (h : notMarker x = true) : esc x = [x] := by
  obtain ⟨hstart, hesc, hend⟩ := notMarker_iff.1 h
  simp [esc, escCode, hstart, hesc, hend]

theorem esc_of_unescapeByte {c x : Byte} (h : unescapeByte c = some x) : esc x = [escMarker, c] := by
  rcases unescapeByte_cases h with ⟨rfl, rfl⟩ | ⟨rfl, rfl⟩ | ⟨rfl, rfl⟩ <;> rfl

theorem unescapeBody_esc_append (x : Byte) (bs : List Byte) :
    unescapeBody false (esc x ++ bs) = (unescapeBody false bs).map (x :: ·) := by
  rcases esc_cases x with ⟨c, -, hx, hc⟩ | ⟨-, hx, hm⟩
  · simp [hx, unescapeBody, hc, startMarker, escMarker, endMarker]
  · obtain ⟨hstart, hesc, hend⟩ := notMarker_iff.1 hm
    simp [hx, unescapeBody, hstart, hesc, hend]

theorem unescapeBody_escSeq (s : List Byte) : unescapeBody false (escSeq s) = some s := by
  induction s with
  | nil => rfl
  | cons x s ih => simp [unescapeBody_esc_append, ih]

/-- What unescapes, with the escape marker just read before it when the flag says so, is the escaped form of what it
unescapes to. -/
theorem escSeq_of_unescapeBody {bs : List Byte} {pending : Bool} {s : List Byte}
    (h : unescapeBody pending bs = some s) : (if pending then [escMarker] else []) ++ bs = escSeq s := by
  induction bs generalizing pending s with
  | nil =>
    cases pending with
    | true => simp [unescapeBody] at h
    | false =>
      injection h with h
      exact h ▸ rfl
  | cons b bs ih =>
    cases pending with
    | true =>
      cases hb : unescapeByte b with
      | none => simp [unescapeBody, hb] at h
      | some x =>
        simp only [unescapeBody, hb, Option.map_eq_some_iff] at h
        obtain ⟨s, hs, rfl⟩ := h
        simpa [esc_of_unescapeByte hb] using ih hs
    | false =>
      simp only [unescapeBody] at h
      split_ifs at h with hstart hend hesc
      · simpa [hesc] using ih h
      · obtain ⟨s, hs, rfl⟩ := Option.map_eq_some_iff.1 h
        simpa [esc_of_notMarker (notMarker_iff.2 ⟨hstart, hesc, hend⟩)] using ih hs

/-- Unescaping the bytes between the markers undoes escaping, and nothing else unescapes. -/
theorem unescapeBody_eq_some {bs s : List Byte} : unescapeBody false bs = some s ↔ bs = escSeq s :=
  ⟨escSeq_of_unescapeBody, fun h => h ▸ unescapeBody_escSeq s⟩

/-! ### Frames (R58, R64, R65) -/

theorem exists_body_of_isFrame {f : List Byte} (h : isFrame f = true) :
    ∃ body, f = [startMarker] ++ body ++ [endMarker] := by
  cases f with
  | nil => cases h
  | cons b rest =>
    simp only [isFrame, Bool.and_eq_true, decide_eq_true_eq] at h
    obtain ⟨⟨rfl, hlast⟩, -⟩ := h
    obtain ⟨body, rfl⟩ := List.getLast?_eq_some_iff.1 hlast
    exact ⟨body, rfl⟩

/-- Between its markers a frame holds an escaped payload and its checksum. -/
theorem isFrame_marked_iff {body : List Byte} :
    isFrame ([startMarker] ++ body ++ [endMarker]) = true ↔
      ∃ p, unescapeBody false body = some (p ++ [checksum p]) := by
  cases hu : unescapeBody false body with
  | none => simp [isFrame, hu]
  | some m =>
    rcases List.eq_nil_or_concat m with rfl | ⟨p, c, rfl⟩
    · simp [isFrame, hu]
    · simp [isFrame, hu, verify, eq_comm]

/-- Settles O37: both forms say that between the markers stands the escaped form of a payload and its checksum. -/
theorem wellFormedFramesAreEncodings : Obligations.WellFormedFramesAreEncodings := by
  intro f
  constructor
  · intro h
    obtain ⟨body, rfl⟩ := exists_body_of_isFrame h
    obtain ⟨p, hp⟩ := isFrame_marked_iff.1 h
    exact ⟨p, by rw [unescapeBody_eq_some.1 hp]; rfl⟩
  · rintro ⟨p, rfl⟩
    exact isFrame_marked_iff.2 ⟨p, unescapeBody_escSeq _⟩

theorem length_esc (x : Byte) : (esc x).length = 1 + markerCount [x] := by
  rcases esc_cases x with ⟨c, -, hx, hc⟩ | ⟨-, hx, hm⟩
  · have hm : notMarker x = false := by
      rcases unescapeByte_cases hc with ⟨-, rfl⟩ | ⟨-, rfl⟩ | ⟨-, rfl⟩ <;> rfl
    simp [hx, markerCount, hm]
  · simp [hx, markerCount, hm]

/-- Escaping adds one byte for each marker. -/
theorem length_escSeq (s : List Byte) : (escSeq s).length = s.length + markerCount s := by
  induction s with
  | nil => rfl
  | cons x s ih =>
    have hcount : markerCount (x :: s) = markerCount [x] + markerCount s := List.countP_append (l₁ := [x])
    simp only [escSeq_cons, List.length_append, List.length_cons, length_esc, ih, hcount]
    omega

theorem length_escapeAndFrame (p : List Byte) (c : Byte) :
    (escapeAndFrame p c).length = p.length + 3 + markerCount (p ++ [c]) := by
  simp only [escapeAndFrame, List.length_append, length_escSeq, List.length_singleton]
  omega

/-- Settles O35: each byte of the body adds itself, and one more if it is a marker. -/
theorem frameLengthCountsMarkers : Obligations.FrameLengthCountsMarkers := by
  refine ⟨fun p c => ?_, rfl⟩
  have hlength := length_escapeAndFrame p c
  have hcount : markerCount (p ++ [c]) ≤ (p ++ [c]).length := List.countP_le_length
  rw [List.length_append, List.length_singleton] at hcount
  exact ⟨hlength, hcount, by omega⟩

/-- A program of LIT is the escaped form of its bytes. -/
theorem assemble_map_lit (xs : List Byte) : assemble (xs.map .lit) = escSeq xs := by
  simp [assemble, escSeq, List.flatMap_map, expand]

/-- Settles O38: escaping distributes over the payload and its checksum byte. -/
theorem framePseudoInstructionsEncode : Obligations.FramePseudoInstructionsEncode := by
  have hframec : ∀ (c : Byte) (xs : List Byte), expand (.framec c xs) = escapeAndFrame xs c := fun c xs => by
    simp [expand, escapeAndFrame]
  exact ⟨fun xs => hframec (checksum xs) xs, hframec, fun xs => (assemble_map_lit xs).symm,
    fun xs => by simp [assemble, expand]⟩

end Sys2Proof.Machine
end

section
/-! PROOFS of the family 40_deframer.md: what each row of the deframer does in its own context, and the overflow fault. -/

namespace Sys2Proof.Machine

/-! ### A row in its own context (R54, R70) -/

/-- A row of an unfaulted deframer applies its rule. -/
theorem exec_eq_rowRule {i : Instr} {s : State} (hf : s.rxFault = false) (hi : i.context = some s.rxState) :
    exec i s = .next (rowRule i s.clearOutputs) := by
  rw [exec_eq_runRx hi, runRx_next hf rfl]

/-- A received byte that selects a row is decoded as that row, and the row applies its rule. -/
theorem decode_and_exec_row {s : State} {b : Byte} {i : Instr} (hf : s.rxFault = false)
    (hi : classifyRx s.rxState b = i) :
    decode s.rxState { port := .rxs, data := [b] } = .ok i ∧ exec i s = .next (rowRule i s.clearOutputs) := by
  subst hi
  exact ⟨decode_rxs _ _, exec_eq_rowRule hf (context_classifyRx _ _)⟩

theorem classifyRx_idle_other {b : Byte} (hstart : b ≠ startMarker) (hend : b ≠ endMarker) (hesc : b ≠ escMarker) :
    classifyRx .idle b = .rxIdleOther b := by
  simp [classifyRx, hstart, hend, hesc]

theorem classifyRx_inPacket_data {b : Byte} (hstart : b ≠ startMarker) (hend : b ≠ endMarker) (hesc : b ≠ escMarker) :
    classifyRx .inPacket b = .rxPktData b := by
  simp [classifyRx, hstart, hend, hesc]

theorem classifyRx_escaped_invalid {b : Byte} (hstart : b ≠ codeOfStart) (hesc : b ≠ codeOfEsc) (hend : b ≠ codeOfEnd) :
    classifyRx .inPacketEscaped b = .rxEscInvalid b := by
  simp [classifyRx, hstart, hesc, hend]

/-! ### Appending, by the capacity (R81 to R85) -/

/-- An append with room for it. -/
theorem State.appendThen_of_ne_capacity {s : State} (h : s.params.bufCapacity ≠ .atMost s.rxBuf.length) (x : Byte)
    (next : DecoderState) : s.appendThen x next = { s with rxBuf := s.rxBuf ++ [x], rxState := next } :=
  State.appendThen_room (Bool.eq_false_iff.2 (mt s.bufFull_iff.1 h)) x next

/-- An append at the capacity (R82). -/
theorem State.appendThen_of_eq_capacity {s : State} (h : s.params.bufCapacity = .atMost s.rxBuf.length) (x : Byte)
    (next : DecoderState) : s.appendThen x next = { s with rxFault := true } :=
  State.appendThen_full (s.bufFull_iff.2 h) x next

/-! ### Idle (R71 to R74) -/

/-- Settles O13: the rule is R71's, and (I-b) of the invariant says that the buffer was empty. -/
theorem startMarkerInIdleOpensAFrame : Obligations.StartMarkerInIdleOpensAFrame := by
  intro s hf hs
  obtain ⟨hdecode, hexec⟩ := decode_and_exec_row hf (b := startMarker) (i := .rxIdleStart) (by rw [hs]; rfl)
  exact ⟨hdecode, hexec, fun hinv => hinv.rx.idleEmpty hs⟩

/-- A run that begins in Idle with a start marker goes on in the frame it opens. -/
theorem feed_idle_start {s : State} (hf : s.rxFault = false) (hs : s.rxState = .idle) (bs : List Byte) :
    feed (startMarker :: bs) s =
      ((feed bs (ruleIdleStart s.freshEvent)).1, quiet :: (feed bs (ruleIdleStart s.freshEvent)).2) :=
  feed_cons_silent bs (rxStep_idle_start (s := s.freshEvent) hf hs) hf rfl rfl

/-- A run that begins in Idle with any other byte goes on as if the byte had not come. -/
theorem feed_idle_other {s : State} (hf : s.rxFault = false) (hs : s.rxState = .idle) {b : Byte} (hb : b ≠ startMarker)
    (bs : List Byte) : feed (b :: bs) s = ((feed bs s.freshEvent).1, quiet :: (feed bs s.freshEvent).2) :=
  feed_cons_silent bs (rxStep_idle_other (s := s.freshEvent) hf hs hb) hf rfl rfl

/-- Settles O14: the rules of R72 to R74 write nothing, and the escape marker of R73 is passed over by a run. -/
theorem otherBytesInIdleAreIgnored : Obligations.OtherBytesInIdleAreIgnored := by
  intro s hf hs
  have hpassed (bs : List Byte) : feed (escMarker :: bs) s.clearOutputs =
      ((feed bs s.clearOutputs).1, quiet :: (feed bs s.clearOutputs).2) :=
    feed_idle_other (s := s.clearOutputs) hf hs (by decide) bs
  refine ⟨decode_and_exec_row hf (by rw [hs]; rfl), decode_and_exec_row hf (by rw [hs]; rfl),
    fun b hstart hend hesc => decode_and_exec_row hf (by rw [hs, classifyRx_idle_other hstart hend hesc]),
    ⟨_, exec_cmdRxFeed _ _, ?_⟩, ⟨_, exec_cmdRxFeed _ _, ?_⟩⟩
  · rw [hpassed, feed_idle_start (s := s.clearOutputs) hf hs]
    exact ⟨rfl, rfl⟩
  · rw [hpassed, feed_idle_other (s := s.clearOutputs) hf hs (by decide)]
    exact ⟨rfl, rfl⟩

/-! ### A start marker in InPacket (R75) -/

/-- Start markers in a row, in a frame that holds nothing yet, each give a Resync with empty `diag`. -/
theorem feed_replicate_start (k : Nat) {s : State} (hf : s.rxFault = false) (hs : s.rxState = .inPacket)
    (hb : s.rxBuf = []) :
    (feed (List.replicate k startMarker) s).2 = List.replicate k { event := .resync, diag := [] } := by
  induction k generalizing s with
  | zero => rfl
  | succ k ih =>
    have hstep : rxStep startMarker s.freshEvent = s.freshEvent.takeEvent .resync [] := by
      rw [rxStep_pkt_start (s := s.freshEvent) hf hs, rulePktStart, State.freshEvent_rxBuf, hb]
    have hrest := ih (s := s.freshEvent.takeEvent .resync []) hf rfl rfl
    rw [List.replicate_succ, feed_cons _ hstep hf, hrest]
    rfl

/-- Settles O15: the first start marker of a row opens a frame, and each of the others finds it empty. -/
theorem startMarkerInPacketResyncs : Obligations.StartMarkerInPacketResyncs := by
  refine ⟨fun s hf hs => decode_and_exec_row hf (by rw [hs]; rfl), fun s k hf hs => ⟨_, exec_cmdRxFeed _ _, ?_⟩⟩
  have hframe := feed_replicate_start k (s := ruleIdleStart s.clearOutputs.freshEvent) hf rfl rfl
  rw [State.withResult_result, List.replicate_succ, feed_idle_start (s := s.clearOutputs) hf hs, hframe]

/-! ### An end marker in InPacket (R76 to R79) -/

/-- No rule but R76's delivers a packet (R77 (c)). -/
theorem eq_rxPktEnd_of_packetComplete {i : Instr} {s : State} {p : List Byte} (he : s.event = .none)
    (h : (rowRule i s).event = .packetComplete p) : i = .rxPktEnd := by
  have happend (b : Byte) (next : DecoderState) : (s.appendThen b next).event ≠ .packetComplete p := by
    simp [he]
  have hsame : s.event ≠ .packetComplete p := by simp [he]
  cases i with
  | rxPktEnd => rfl
  | rxPktStart => exact nomatch h
  | rxEscInvalid b => exact nomatch h
  | rxPktData b => exact absurd h (happend _ _)
  | rxEsc55 => exact absurd h (happend _ _)
  | rxEsc44 => exact absurd h (happend _ _)
  | rxEsc33 => exact absurd h (happend _ _)
  | _ => exact absurd h hsame

/-- Settles O16, by how the end marker finds the buffer. -/
theorem endMarkerClosesTheFrame : Obligations.EndMarkerClosesTheFrame := by
  constructor
  · intro s hf hs
    obtain ⟨hdecode, hexec⟩ : _ ∧ exec .rxPktEnd s = .next (rulePktEnd s.clearOutputs) :=
      decode_and_exec_row hf (b := endMarker) (by rw [hs]; rfl)
    refine ⟨hdecode, fun hb => ?_, fun p hb => ⟨checksum p, ?_⟩, fun p c hb hc => ⟨checksum p, ?_⟩⟩
    · rw [hexec, rulePktEnd_empty (s := s.clearOutputs) hb]
    · rw [hexec, rulePktEnd_match (s := s.clearOutputs) hb, State.takeEvent_packetComplete]
      rfl
    · rw [hexec, rulePktEnd_mismatch (s := s.clearOutputs) hb hc, State.takeEvent_badChecksum]
      rfl
  · intro i s t p hi h hp
    obtain ⟨ctx, hctx⟩ := Option.ne_none_iff_exists'.1 hi
    rw [exec_eq_runRx hctx] at h
    rcases runRx_cases h with ⟨-, rfl⟩ | ⟨-, -, rfl⟩
    · exact nomatch hp
    · exact eq_rxPktEnd_of_packetComplete (State.clearOutputs_event s) hp

/-! ### An escape marker and data in InPacket (R80, R81) -/

/-- Settles O17: `rx_esc` is 1 in the state that R80 leaves (R12). -/
theorem escapeMarkerSetsTheFlag : Obligations.EscapeMarkerSetsTheFlag := by
  intro s hf hs
  obtain ⟨hdecode, hexec⟩ := decode_and_exec_row hf (b := escMarker) (i := .rxPktEsc) (by rw [hs]; rfl)
  exact ⟨hdecode, hexec, rfl⟩

/-- Settles O18: an append with room, that leaves the deframer in InPacket. -/
theorem dataByteIsAppended : Obligations.DataByteIsAppended := by
  intro s b hf hs hstart hend hesc hroom
  obtain ⟨hdecode, hexec⟩ : _ ∧ exec (.rxPktData b) s = .next (s.clearOutputs.appendThen b .inPacket) :=
    decode_and_exec_row hf (by rw [hs, classifyRx_inPacket_data hstart hend hesc])
  rw [State.appendThen_of_ne_capacity (s := s.clearOutputs) hroom, ← hs] at hexec
  exact ⟨hdecode, hexec⟩

/-! ### After an escape marker (R83 to R86, R89) -/

/-- Settles O19: three appends with room. -/
theorem escapeCodesAppendMarkers : Obligations.EscapeCodesAppendMarkers := by
  intro s hf hs hroom
  have happend (x : Byte) := State.appendThen_of_ne_capacity (s := s.clearOutputs) hroom x .inPacket
  refine ⟨?_, ?_, ?_⟩
  · exact happend startMarker ▸ decode_and_exec_row hf (i := .rxEsc55) (by rw [hs]; rfl)
  · exact happend escMarker ▸ decode_and_exec_row hf (i := .rxEsc44) (by rw [hs]; rfl)
  · exact happend endMarker ▸ decode_and_exec_row hf (i := .rxEsc33) (by rw [hs]; rfl)

/-- Settles O20: the rule takes the event of R86 whatever the buffer holds. -/
theorem invalidEscapeDropsTheByte : Obligations.InvalidEscapeDropsTheByte := by
  intro s b hf hs hstart hesc hend
  exact decode_and_exec_row hf (by rw [hs, classifyRx_escaped_invalid hstart hesc hend])

/-! ### The overflow fault (R82) -/

/-- A deframer that is not faulted and whose buffer has no bound. -/
structure State.Boundless (s : State) : Prop where
  unbounded : s.params.bufCapacity = .unbounded
  unfaulted : s.rxFault = false

namespace State.Boundless

variable {s : State} (h : s.Boundless)
include h

theorem congr {t : State} (hst : SameDeframer s t) : t.Boundless :=
  ⟨hst.params ▸ h.unbounded, hst.rxFault ▸ h.unfaulted⟩

theorem takeEvent (e : Event) (d : List Byte) : (s.takeEvent e d).Boundless := by
  cases e <;> exact ⟨h.unbounded, h.unfaulted⟩

theorem appendThen (b : Byte) (next : DecoderState) : (s.appendThen b next).Boundless := by
  rw [State.appendThen_of_ne_capacity (by simp [h.unbounded])]
  exact ⟨h.unbounded, h.unfaulted⟩

theorem afterPktEnd : (rulePktEnd s).Boundless := by
  have hacc (a : Byte) : State.Boundless { s with csumAcc := a } := ⟨h.unbounded, h.unfaulted⟩
  rcases buffer_cases s.rxBuf with hb | ⟨p, hb⟩ | ⟨p, c, hb, hc⟩
  · rw [rulePktEnd_empty hb]
    exact h
  · rw [rulePktEnd_match hb]
    exact (hacc _).takeEvent _ _
  · rw [rulePktEnd_mismatch hb hc]
    exact (hacc _).takeEvent _ _

/-- Only an append can fault, and here it finds room. -/
theorem afterRule (i : Instr) : (rowRule i s).Boundless := by
  cases i with
  | rxPktStart => exact h.takeEvent .resync s.rxBuf
  | rxPktEnd => exact h.afterPktEnd
  | rxPktData b => exact h.appendThen b _
  | rxEsc55 => exact h.appendThen _ _
  | rxEsc44 => exact h.appendThen _ _
  | rxEsc33 => exact h.appendThen _ _
  | rxEscInvalid b => exact h.takeEvent .invalidEscape [b]
  | _ => exact ⟨h.unbounded, h.unfaulted⟩

theorem afterStep (b : Byte) : (rxStep b s).Boundless :=
  rxStep_eq_rowRule h.unfaulted b ▸ h.afterRule _

theorem afterRun (bs : List Byte) : (feed bs s).1.Boundless :=
  feed_induction (P := State.Boundless) (fun _ h => ⟨h.unbounded, h.unfaulted⟩) (fun b _ h => h.afterStep b) bs h

/-- An instruction, by the families: a byte of the deframer's, the reset, or none of the deframer's concern. -/
theorem afterExec {i : Instr} {t : State} (ht : exec i s = .next t) : t.Boundless := by
  have hclear : s.clearOutputs.Boundless := ⟨h.unbounded, h.unfaulted⟩
  have hresult {u : State} (hu : u.Boundless) (r : Result) : (u.withResult r).Boundless := ⟨hu.unbounded, hu.unfaulted⟩
  rcases framer_families i with (hi | ⟨b, rfl⟩ | ⟨bs, rfl⟩) | hi | hi | rfl | hi
  · obtain ⟨ctx, hctx⟩ := Option.ne_none_iff_exists'.1 hi
    rw [exec_eq_runRx hctx] at ht
    rcases runRx_cases ht with ⟨-, rfl⟩ | ⟨-, -, rfl⟩
    · exact hclear
    · exact hclear.afterRule i
  · injection (exec_cmdRxStep b s).symm.trans ht with ht
    exact ht ▸ hresult (hclear.afterStep b) _
  · injection (exec_cmdRxFeed bs s).symm.trans ht with ht
    exact ht ▸ hresult (hclear.afterRun bs) _
  · exact h.congr (exec_framer_sameDeframer (or_assoc.1 (.inl hi)) ht).1
  · exact h.congr (exec_framer_sameDeframer (.inr (.inr hi)) ht).1
  · injection ht with ht
    exact ht ▸ ⟨h.unbounded, rfl⟩
  · exact h.congr (exec_query_sameDeframer hi ht)

end State.Boundless

/-- Settles O21: each of the four rows is one append, and the append is what faults. -/
theorem fullBufferFaults : Obligations.FullBufferFaults := by
  refine ⟨fun s hf hfull => ?_, fun i s t hcap hf h => (State.Boundless.afterExec ⟨hcap, hf⟩ h).unfaulted⟩
  have happend (x : Byte) := State.appendThen_of_eq_capacity (s := s.clearOutputs) hfull x .inPacket
  have hrow {i : Instr} (hi : i.context = some s.rxState) := exec_eq_rowRule hf hi
  refine ⟨fun hs b _ _ _ => ?_, fun hs => ⟨?_, ?_, ?_⟩⟩
  · exact happend b ▸ hrow (i := .rxPktData b) (by rw [hs]; rfl)
  · exact happend startMarker ▸ hrow (i := .rxEsc55) (by rw [hs]; rfl)
  · exact happend escMarker ▸ hrow (i := .rxEsc44) (by rw [hs]; rfl)
  · exact happend endMarker ▸ hrow (i := .rxEsc33) (by rw [hs]; rfl)

end Sys2Proof.Machine
end

section
/-! PROOFS of the family 41_framer.md: the TX rows, the frame commands at either level, the byte-serial framer's steps and
the whole frames they emit, and what a frame shows on the wire. -/

namespace Sys2Proof.Machine

/-! ### The TX rows (R101 to R109) -/

/-- Settles O26: a row's bytes are its result (`runTx`), and a frame is built between its two markers. -/
theorem txRowsEmitTheirBytes : Obligations.TxRowsEmitTheirBytes :=
  ⟨fun s => ⟨runTx_eq _ s, runTx_eq _ s, runTx_eq _ s, fun x => runTx_eq [x] s, runTx_eq _ s, runTx_eq _ s⟩,
    fun _ _ => ⟨rfl, List.getLast?_concat⟩⟩

/-- A TX row contributes its bytes to the outputs, and the rest run on from the state it leaves. -/
theorem outputs_cons_of_runTx {i : Instr} {s : State} {bs : List Byte} (h : exec i s = runTx bs s) (is : List Instr) :
    outputs (i :: is) s = (outputs is { s.clearOutputs with result := .bytes bs }).map (bs ++ ·) := by
  simp only [outputs, h, runTx_eq]

/-- The rows of source bytes emit the escaped form of the bytes, ahead of whatever is emitted next (R105). -/
theorem outputs_map_classifyTx_append {is : List Instr} {bs : List Byte} (h : ∀ s, outputs is s = some bs)
    (xs : List Byte) (s : State) : outputs (xs.map classifyTx ++ is) s = some (escSeq xs ++ bs) := by
  induction xs generalizing s with
  | nil => exact h s
  | cons x xs ih =>
    rw [List.map_cons, List.cons_append, outputs_cons_of_runTx (exec_classifyTx s x), ih, escSeq_cons,
      List.append_assoc]
    rfl

/-- Settles O27: the start marker, the escaped bytes and the end marker, row by row. -/
theorem rowsInOrderMakeTheFrame : Obligations.RowsInOrderMakeTheFrame := by
  intro s p c
  have hend (s : State) : outputs [.txEnd] s = some [endMarker] := rfl
  rw [List.append_assoc, List.singleton_append, outputs_cons_of_runTx (bs := [startMarker]) rfl,
    outputs_map_classifyTx_append hend, escapeAndFrame, List.append_assoc]
  rfl

/-! ### The frame commands (R106, R107, R111, R113, R149, R150) -/

theorem exec_cmdTxFrame_of_free {s : State} (h : s.framerBusy = false) (p : List Byte) (c : Byte) :
    exec (.cmdTxFrame p c) s = .next (s.clearOutputs.startFrame p c) := by
  simp [exec, execCmdTxFrame, h]

/-- CMD.TX.ENCODE starts the frame of CMD.TX.FRAME with the checksum that the engine leaves in the accumulator. -/
theorem exec_cmdTxEncode_of_free {s : State} (h : s.framerBusy = false) (p : List Byte) :
    exec (.cmdTxEncode p) s =
      .next (State.startFrame { s.clearOutputs with csumAcc := checksum p } p (checksum p)) := by
  simp [exec, execCmdTxEncode, h]

/-- Settles O28: at the function level the framer is always free, and the frame is R106's. -/
theorem frameCommandDeliversTheFrame : Obligations.FrameCommandDeliversTheFrame := by
  intro s p c hl
  rw [exec_cmdTxFrame_of_free (State.framerBusy_function hl), State.startFrame_function (by exact hl)]
  rfl

/-- Settles O29, as O28 with the engine's checksum. -/
theorem encodeCommandFramesWithTheChecksum : Obligations.EncodeCommandFramesWithTheChecksum := by
  intro s p hl
  refine ⟨checksum p, ?_⟩
  rw [exec_cmdTxEncode_of_free (State.framerBusy_function hl), State.startFrame_function (by exact hl)]
  rfl

/-- Settles O30: in TxIdle the framer is free, and at the byte-serial level a frame it takes is loaded (R111). -/
theorem serialFramerTakesAFrame : Obligations.SerialFramerTakesAFrame := by
  intro s p c hl hs
  have hfree := State.framerBusy_idle hs
  refine ⟨?_, checksum p, ?_⟩
  · rw [exec_cmdTxFrame_of_free hfree, State.startFrame_byteSerial (by exact hl)]
  · rw [exec_cmdTxEncode_of_free hfree, State.startFrame_byteSerial (by exact hl)]

/-- Settles O31: both commands test that the framer is free before anything else. -/
theorem busyFramerRefusesFrames : Obligations.BusyFramerRefusesFrames := by
  intro s p c hl hs
  have hbusy : s.framerBusy = true := State.framerBusy_iff.2 ⟨hl, hs⟩
  exact ⟨if_pos hbusy, if_pos hbusy⟩

/-! ### One `tx_step` (R112) -/

theorem afterSourceByte_eq (q : List Byte) : afterSourceByte q = if q = [] then .txEnd else .txBody := by
  cases q <;> rfl

theorem txStep_of_txStart {s : State} (h : s.txState = .txStart) :
    txStep s = .next { s with txs := s.txs ++ [startMarker], txState := .txBody } := by
  simp only [txStep, h]
  rfl

/-- A marker goes out as the escape marker, and its code is held for the next step. -/
theorem txStep_of_marker {s : State} {x c : Byte} {q : List Byte} (h : s.txState = .txBody) (hq : s.txQ = x :: q)
    (hc : escCode x = some c) :
    txStep s = .next { s with txs := s.txs ++ [escMarker], txQ := q, txHold := c, txState := .txEsc2 } := by
  simp only [txStep, h, hq, hc]
  rfl

theorem txStep_of_literal {s : State} {x : Byte} {q : List Byte} (h : s.txState = .txBody) (hq : s.txQ = x :: q)
    (hc : escCode x = none) :
    txStep s = .next { s with txs := s.txs ++ [x], txQ := q, txState := afterSourceByte q } := by
  simp only [txStep, h, hq, hc]
  rfl

theorem txStep_of_txEsc2 {s : State} (h : s.txState = .txEsc2) :
    txStep s = .next { s with txs := s.txs ++ [s.txHold], txState := afterSourceByte s.txQ } := by
  simp only [txStep, h]
  rfl

theorem txStep_of_txEnd {s : State} (h : s.txState = .txEnd) :
    txStep s = .next { s with txs := s.txs ++ [endMarker], txState := .txIdle } := by
  simp only [txStep, h]
  rfl

/-- Settles O32, state by state, and in TxBody by the value of the source byte. -/
theorem txStepByState : Obligations.TxStepByState := by
  intro s
  simp only [← afterSourceByte_eq]
  refine ⟨fun hs => by simp only [txStep, hs], txStep_of_txStart, fun x q hs hq => ?_, txStep_of_txEsc2,
    txStep_of_txEnd⟩
  split_ifs with hstart hesc hend
  · exact txStep_of_marker hs hq (by rw [hstart]; rfl)
  · exact txStep_of_marker hs hq (by rw [hesc]; rfl)
  · exact txStep_of_marker hs hq (by rw [hend]; rfl)
  · exact txStep_of_literal hs hq (by simp [escCode, hstart, hesc, hend])

/-- Settles O7: only a `tx_step` in TxBody with an empty `tx_q` faults (O6), which the invariant excludes (R111). -/
theorem invariantStatesNeverFault : Obligations.InvariantStatesNeverFault := by
  intro s f hinv h
  obtain ⟨-, hbody, hq⟩ := stepStopsOnlyOnMalformedInputOrEmptyQueue.2 s f h
  exact hinv.tx.sourceWaits (.inr hbody) hq

/-! ### Repeated `tx_step`s (R112)

A `tx_step` of a framer that is sending moves the first byte still to be sent onto TXS. So `k` steps move the first `k`,
and when none is left the framer is back in TxIdle. -/

/-- `t` differs from `s` in nothing but the framer's registers and TXS. -/
def FramerOnly (s t : State) : Prop :=
  t = { s with txState := t.txState, txQ := t.txQ, txHold := t.txHold, txs := t.txs }

theorem FramerOnly.trans {s t u : State} (h : FramerOnly s t) (h' : FramerOnly t u) : FramerOnly s u := by
  unfold FramerOnly at h h' ⊢
  rw [h] at h'
  exact h'

theorem txStep_framerOnly {s t : State} (h : txStep s = .next t) : FramerOnly s t := by
  rcases txStep_cases h with ⟨-, rfl⟩ | ⟨-, rfl⟩ | ⟨x, q, c, -, -, -, rfl⟩ | ⟨x, q, -, -, -, rfl⟩ | ⟨-, rfl⟩ | ⟨-, rfl⟩ <;>
    rfl

/-- Outside TxIdle a `tx_step` emits one byte. -/
theorem txStep_emits_one {s t : State} (hs : s.txState ≠ .txIdle) (h : txStep s = .next t) :
    ∃ b, t.txs = s.txs ++ [b] := by
  rcases txStep_cases h with ⟨hidle, -⟩ | ⟨-, rfl⟩ | ⟨x, q, c, -, -, -, rfl⟩ | ⟨x, q, -, -, -, rfl⟩ | ⟨-, rfl⟩ | ⟨-, rfl⟩
  · exact absurd hidle hs
  all_goals exact ⟨_, rfl⟩

/-- The framer has nothing to send exactly in TxIdle. -/
theorem State.toSend_eq_nil_iff {s : State} : s.toSend = [] ↔ s.txState = .txIdle := by
  cases h : s.txState <;> simp [State.toSend, h]

/-- The next byte to be sent is what the next `tx_step` emits. -/
theorem txStep_of_toSend_cons {s : State} (hinv : s.TxInv) {b : Byte} {bs : List Byte} (h : s.toSend = b :: bs) :
    ∃ t, txStep s = .next t ∧ t.txs = s.txs ++ [b] ∧ t.toSend = bs := by
  have hs : s.txState ≠ .txIdle := fun hidle => by simp [State.toSend_of_txIdle hidle] at h
  rcases txStep_total s with ⟨t, ht⟩ | ⟨hbody, hq, -⟩
  · obtain ⟨b', htxs⟩ := txStep_emits_one hs ht
    have hkept := txStep_txs_append_toSend ht
    rw [htxs, h, List.append_assoc, List.append_cancel_left_eq, List.singleton_append] at hkept
    obtain ⟨rfl, hrest⟩ := List.cons.inj hkept
    exact ⟨t, ht, htxs, hrest⟩
  · exact absurd hq (hinv.sourceWaits (.inr hbody))

/-- As many `tx_step`s as there are bytes in the first part of what is to be sent emit that part and leave the rest. -/
theorem txSteps_of_toSend_append {s : State} (hinv : s.TxInv) {bs rest : List Byte} (h : s.toSend = bs ++ rest) :
    ∃ t, txSteps bs.length s = .next t ∧ t.TxInv ∧ FramerOnly s t ∧ t.txs = s.txs ++ bs ∧ t.toSend = rest := by
  induction bs generalizing s with
  | nil => exact ⟨s, rfl, hinv, rfl, (List.append_nil _).symm, h⟩
  | cons b bs ih =>
    obtain ⟨t, ht, htxs, hsend⟩ := txStep_of_toSend_cons hinv h
    obtain ⟨u, hu, huinv, hframe, hutxs, husend⟩ := ih (hinv.txStep ht) hsend
    refine ⟨u, ?_, huinv, (txStep_framerOnly ht).trans hframe, by simp [hutxs, htxs], husend⟩
    simp only [List.length_cons, txSteps, ht, hu]

/-- Sending all there is to be sent leads back to TxIdle with an empty `tx_q`. -/
theorem txSteps_length_toSend {s : State} (hinv : s.TxInv) :
    ∃ hold, txSteps s.toSend.length s =
      .next { s with txState := .txIdle, txQ := [], txHold := hold, txs := s.txs ++ s.toSend } := by
  obtain ⟨t, ht, htinv, hframe, htxs, hsend⟩ := txSteps_of_toSend_append hinv (List.append_nil _).symm
  have hidle : t.txState = .txIdle := State.toSend_eq_nil_iff.1 hsend
  rw [FramerOnly, hidle, htinv.sourceSpent (.inr hidle), htxs] at hframe
  exact ⟨t.txHold, hframe ▸ ht⟩

/-- Settles O33: a frame just taken is what is to be sent, and the steps send it byte by byte. -/
theorem serialFramerEmitsTheFrame : Obligations.SerialFramerEmitsTheFrame := by
  intro s t p c hl hs h
  obtain ⟨htaken, -⟩ := serialFramerTakesAFrame s p c hl hs
  injection htaken.symm.trans h with ht
  subst ht
  have hinv : State.TxInv { s.clearOutputs with txQ := p ++ [c], txState := .txStart, result := .txAccepted } :=
    ⟨by simp, by simp, nofun, fun hf => absurd (hl.symm.trans hf) (by decide)⟩
  refine ⟨txSteps_length_toSend hinv, fun k hk => ?_⟩
  obtain ⟨u, hu, -, -, htxs, -⟩ := txSteps_of_toSend_append hinv (List.take_append_drop k (escapeAndFrame p c)).symm
  rw [List.length_take_of_le hk] at hu
  exact ⟨u, hu, htxs⟩

/-! ### Frames on the wire (R59, R115) -/

theorem not_mem_esc {m : Byte} (hm : m = startMarker ∨ m = endMarker) (x : Byte) : m ∉ esc x := by
  rcases esc_cases x with ⟨c, -, hx, hc⟩ | ⟨-, hx, hx'⟩ <;> rw [hx]
  · rcases unescapeByte_cases hc with ⟨rfl, -⟩ | ⟨rfl, -⟩ | ⟨rfl, -⟩ <;> rcases hm with rfl | rfl <;> decide
  · obtain ⟨hstart, -, hend⟩ := notMarker_iff.1 hx'
    rcases hm with rfl | rfl
    · simpa using hstart.symm
    · simpa using hend.symm

/-- An escaped sequence holds neither of the two delimiters. -/
theorem not_mem_escSeq {m : Byte} (hm : m = startMarker ∨ m = endMarker) (s : List Byte) : m ∉ escSeq s := by
  rw [escSeq, List.mem_flatMap]
  rintro ⟨x, -, hx⟩
  exact not_mem_esc hm x hx

theorem escSeq_injective : Function.Injective escSeq := fun s t h =>
  Option.some.inj ((unescapeBody_escSeq s).symm.trans (h ▸ unescapeBody_escSeq t))

/-- Every escape marker is followed by an escape code (R115 (b)). -/
def EscapesComplete (bs : List Byte) : Prop :=
  ∀ k : Nat, bs[k]? = some escMarker →
    bs[k + 1]? = some codeOfStart ∨ bs[k + 1]? = some codeOfEsc ∨ bs[k + 1]? = some codeOfEnd

theorem EscapesComplete.cons {bs : List Byte} (h : EscapesComplete bs) {b : Byte} (hb : b ≠ escMarker) :
    EscapesComplete (b :: bs)
  | 0, hk => absurd (Option.some.inj hk) hb
  | k + 1, hk => h k hk

/-- An escape marker with its code before a sequence whose escapes are complete. -/
theorem EscapesComplete.cons_pair {bs : List Byte} (h : EscapesComplete bs) {c x : Byte}
    (hc : unescapeByte c = some x) : EscapesComplete (escMarker :: c :: bs) := by
  have hcode : c = codeOfStart ∨ c = codeOfEsc ∨ c = codeOfEnd := by
    rcases unescapeByte_cases hc with ⟨hc, -⟩ | ⟨hc, -⟩ | ⟨hc, -⟩ <;> simp [hc]
  have hne : c ≠ escMarker := by rcases hcode with rfl | rfl | rfl <;> decide
  rintro (_ | k) hk
  · simpa using hcode
  · exact h.cons hne k hk

theorem EscapesComplete.escSeq_append {bs : List Byte} (h : EscapesComplete bs) (s : List Byte) :
    EscapesComplete (escSeq s ++ bs) := by
  induction s with
  | nil => exact h
  | cons x s ih =>
    rw [escSeq_cons, List.append_assoc]
    rcases esc_cases x with ⟨c, -, hx, hc⟩ | ⟨-, hx, hm⟩ <;> rw [hx]
    · exact ih.cons_pair hc
    · obtain ⟨-, hesc, -⟩ := notMarker_iff.1 hm
      exact ih.cons hesc

theorem escapesComplete_escapeAndFrame (p : List Byte) (c : Byte) : EscapesComplete (escapeAndFrame p c) := by
  have hend : EscapesComplete [endMarker] := EscapesComplete.cons (bs := []) nofun (by decide)
  rw [escapeAndFrame, List.append_assoc]
  exact (hend.escSeq_append _).cons (by decide)

theorem escapeAndFrame_inj {p p' : List Byte} {c c' : Byte} (h : escapeAndFrame p c = escapeAndFrame p' c') :
    p = p' ∧ c = c' := by
  have hbody : p ++ [c] = p' ++ [c'] :=
    escSeq_injective (List.append_cancel_left (List.append_cancel_right h))
  obtain ⟨hp, hc⟩ := List.append_inj' hbody rfl
  exact ⟨hp, List.singleton_injective hc⟩

/-- Settles O36: the body of a frame is an escaped sequence, which shows no delimiter, completes its escapes and can be
read back. -/
theorem framesHideTheMarkers : Obligations.FramesHideTheMarkers :=
  ⟨fun p c => ⟨⟨escSeq (p ++ [c]), rfl, not_mem_escSeq (.inl rfl) _, not_mem_escSeq (.inr rfl) _⟩,
      escapesComplete_escapeAndFrame p c, length_escapeAndFrame p c⟩,
    fun _ _ _ _ => escapeAndFrame_inj⟩

end Sys2Proof.Machine
end

section
/-! PROOFS of the family 42_checksum.md: the checksum, its verification at the end marker, and what it detects. -/

namespace Sys2Proof.Machine

/-! ### Verification (R122, R123) -/

theorem splitBody_eq_some_iff {m : Memory} {p : List Byte} {r : Byte} : splitBody m = some (p, r) ↔ m = p ++ [r] :=
  ⟨splitBody_eq_some, fun h => h ▸ splitBody_append p r⟩

theorem verify_eq_true_iff {p : List Byte} {r : Byte} : verify p r = true ↔ checksum p = r :=
  decide_eq_true_iff

/-- The sum of the whole buffer less its last byte is the checksum of the rest (R123). -/
theorem checksum_append_singleton_sub (p : List Byte) (r : Byte) : checksum (p ++ [r]) - r = checksum p := by
  rw [checksum_append, checksum_cons, checksum_nil, BitVec.add_zero, BitVec.add_sub_cancel]

theorem verify_eq_runningVerify (p : List Byte) (r : Byte) : verify p r = runningVerify (checksum (p ++ [r])) r := by
  rw [runningVerify, checksum_append_singleton_sub, verify]

/-- Settles O43: the running form takes the last byte off the sum of the whole buffer. -/
theorem verifyByRunningSum : Obligations.VerifyByRunningSum :=
  ⟨fun _ _ _ => splitBody_eq_some_iff, fun _ _ => verify_eq_true_iff, verify_eq_runningVerify,
    fun _ => verify_eq_true_iff.trans eq_comm⟩

/-! ### What the checksum does not see (R128) -/

/-- Reordered bytes have the same checksum (R128 (a)). -/
theorem checksum_perm {s t : List Byte} (h : s.Perm t) : checksum s = checksum t := by
  rw [checksum, checksum, (h.map BitVec.toNat).sum_eq]

/-- A byte of value 00 adds nothing (R128 (c)). -/
theorem checksum_insert_zero (s t : List Byte) : checksum (s ++ [0x00#8] ++ t) = checksum (s ++ t) := by
  rw [checksum_append, checksum_append, checksum_append, checksum_cons, checksum_nil, BitVec.add_zero, BitVec.add_zero]

/-- Settles O44: the checksum is a sum, and 8-bit addition wraps. -/
theorem checksumIgnoresOrderAndZeros : Obligations.ChecksumIgnoresOrderAndZeros :=
  ⟨fun _ _ => checksum_perm, checksum_insert_zero, by decide, by decide⟩

/-! ### What the checksum detects (R127) -/

/-- Of two sequences that differ in one byte at most, the checksums are equal only if the bytes are. -/
theorem checksum_replace_inj {a z : List Byte} {x y : Byte} :
    checksum (a ++ [x] ++ z) = checksum (a ++ [y] ++ z) ↔ x = y := by
  simp

/-- A buffer that verifies does not verify after one of its bytes is changed: a changed last byte is no longer the sum of
the rest, and with any other changed the rest no longer has that sum. -/
theorem checksum_ne_of_one_changed {a z p q : List Byte} {x y c d : Byte} (hxy : x ≠ y)
    (hold : a ++ [x] ++ z = p ++ [c]) (hnew : a ++ [y] ++ z = q ++ [d]) (hc : checksum p = c) : checksum q ≠ d := by
  rcases List.eq_nil_or_concat z with rfl | ⟨z', w, rfl⟩
  · rw [List.append_nil] at hold hnew
    obtain ⟨rfl, hx⟩ := List.append_inj' hold rfl
    obtain ⟨rfl, hy⟩ := List.append_inj' hnew rfl
    rw [hc, ← List.singleton_injective hx, ← List.singleton_injective hy]
    exact hxy
  · rw [List.concat_eq_append, ← List.append_assoc] at hold hnew
    obtain ⟨rfl, hw⟩ := List.append_inj' hold rfl
    obtain ⟨rfl, hw'⟩ := List.append_inj' hnew rfl
    rw [← List.singleton_injective hw', List.singleton_injective hw, ← hc, ne_eq, checksum_replace_inj]
    exact hxy.symm

/-- Settles O45: the changed buffer does not verify, and O16 says what the end marker does with it. -/
theorem oneChangedByteIsDetected : Obligations.OneChangedByteIsDetected := by
  intro s a z x y p q c d hxy hold hnew hc
  have hbad : checksum q ≠ d := checksum_ne_of_one_changed hxy hold hnew hc
  refine ⟨hbad, fun hf hs hb => ?_⟩
  obtain ⟨-, -, -, hmismatch⟩ := endMarkerClosesTheFrame.1 s hf hs
  obtain ⟨acc, hexec⟩ := hmismatch q d (hb.trans hnew) hbad
  exact ⟨_, hexec, rfl⟩

end Sys2Proof.Machine
end

section
/-! PROOFS of the family 43_properties.md: round trips and recovery, chunks of a byte sequence, and what the events of a
run say about its bytes and its counter. -/

namespace Sys2Proof.Machine

/-! ### The rest of a frame, from InPacket (R130 to R132) -/

/-- The report of the end marker of a frame with payload `p` that found `m` in the buffer at its first payload byte
(R132): the checksum byte verifies the whole exactly when `m` sums to zero. -/
def closingReport (m : Memory) (p : List Byte) : Report :=
  if checksum m = 0#8 then { event := .packetComplete (m ++ p), diag := [] }
  else { event := .badChecksum, diag := m ++ p ++ [checksum p] }

/-- What the closing of a frame with the report `r` leaves, EVS having been `e` (R77, R78). -/
structure FrameClosed (e : List Report) (r : Report) (t : State) : Prop where
  report : { event := t.event, diag := t.diag } = r
  evs : t.evs = e ++ [r]
  idle : t.rxState = .idle
  empty : t.rxBuf = []
  unfaulted : t.rxFault = false
  counter : r.isPacket = true → t.rxErrcnt = 0

theorem rulePktEnd_frameClosed {s : State} {m : Memory} {p : List Byte} (hf : s.rxFault = false)
    (hb : s.rxBuf = m ++ (p ++ [checksum p])) : FrameClosed s.evs (closingReport m p) (rulePktEnd s) := by
  rw [← List.append_assoc] at hb
  by_cases hm : checksum m = 0#8
  · have hsum : checksum p = checksum (m ++ p) := by rw [checksum_append, hm, BitVec.zero_add]
    rw [closingReport, if_pos hm, rulePktEnd_match (hsum ▸ hb)]
    exact ⟨rfl, rfl, rfl, rfl, hf, fun _ => rfl⟩
  · have hsum : checksum (m ++ p) ≠ checksum p := by
      rw [checksum_append, ne_eq, add_eq_right]
      exact hm
    rw [closingReport, if_neg hm, rulePktEnd_mismatch hb hsum, ← hb]
    exact ⟨rfl, rfl, rfl, rfl, hf, nofun⟩

theorem length_encodeFrame (p : List Byte) : (encodeFrame p).length = (escSeq (p ++ [checksum p])).length + 2 := by
  simp only [encodeFrame, escapeAndFrame, List.length_append, List.length_singleton]
  omega

/-- The end marker, fed in InPacket with the body of the frame in the buffer, closes the frame. -/
theorem feed_end_frameClosed {s : State} {m : Memory} {p : List Byte} (hf : s.rxFault = false)
    (hs : s.rxState = .inPacket) (hb : s.rxBuf = m ++ (p ++ [checksum p])) :
    (feed [endMarker] s).2 = [closingReport m p] ∧ FrameClosed s.evs (closingReport m p) (feed [endMarker] s).1 := by
  have hclosed : FrameClosed s.evs (closingReport m p) (rulePktEnd s.freshEvent) :=
    rulePktEnd_frameClosed (s := s.freshEvent) hf hb
  rw [feed_cons [] (rxStep_pkt_end (s := s.freshEvent) hf hs) hclosed.unfaulted, hclosed.report]
  exact ⟨rfl, hclosed⟩

/-- The bytes of a frame after its start marker, fed in InPacket: the body joins the buffer silently, and the end marker
closes the frame. -/
theorem feed_frame_rest {s : State} {p : List Byte} (hf : s.rxFault = false) (hs : s.rxState = .inPacket)
    (hroom : s.params.bufCapacity.allows (s.rxBuf.length + p.length + 1) = true) :
    (feed (escSeq (p ++ [checksum p]) ++ [endMarker]) s).2 =
        List.replicate ((encodeFrame p).length - 2) quiet ++ [closingReport s.rxBuf p] ∧
      FrameClosed s.evs (closingReport s.rxBuf p) (feed (escSeq (p ++ [checksum p]) ++ [endMarker]) s).1 := by
  have hbody := feed_escSeq (p ++ [checksum p]) (s := s.freshEvent) rfl rfl hf hs
    (by simpa [Nat.add_assoc] using hroom) [endMarker]
  rw [feed_freshEvent s (by simp), State.freshEvent_rxBuf] at hbody
  obtain ⟨hreport, hclosed⟩ := feed_end_frameClosed (p := p)
    (s := { s.freshEvent with rxBuf := s.rxBuf ++ (p ++ [checksum p]) }) hf hs rfl
  rw [hbody, hreport, length_encodeFrame]
  exact ⟨rfl, hclosed⟩

/-- A frame fed to a state that its start marker takes to `s1`, in InPacket. -/
theorem exec_cmdRxFeed_encodeFrame {s s1 : State} {p : List Byte} (hstart : rxStep startMarker s.clearOutputs = s1)
    (hf : s1.rxFault = false) (hs : s1.rxState = .inPacket)
    (hroom : s1.params.bufCapacity.allows (s1.rxBuf.length + p.length + 1) = true) :
    ∃ t, exec (.cmdRxFeed (encodeFrame p)) s = .next t ∧
      t.result = .reports ({ event := s1.event, diag := s1.diag } ::
        List.replicate ((encodeFrame p).length - 2) quiet ++ [closingReport s1.rxBuf p]) ∧
      FrameClosed s1.evs (closingReport s1.rxBuf p) t := by
  obtain ⟨hreports, hclosed⟩ := feed_frame_rest hf hs hroom
  have hfeed : feed (encodeFrame p) s.clearOutputs = _ :=
    feed_cons (escSeq (p ++ [checksum p]) ++ [endMarker]) hstart hf
  refine ⟨_, exec_cmdRxFeed _ _, ?_⟩
  rw [hfeed, hreports]
  exact ⟨rfl, hclosed.report, hclosed.evs, hclosed.idle, hclosed.empty, hclosed.unfaulted, hclosed.counter⟩

/-! ### A whole frame, from each state (R130 to R133) -/

/-- Settles O55: the start marker opens an empty frame without a report, and an empty buffer sums to zero. -/
theorem roundTripFromIdle : Obligations.RoundTripFromIdle := by
  intro s p hf hs hroom
  obtain ⟨t, hexec, hresult, hclosed⟩ := exec_cmdRxFeed_encodeFrame (p := p)
    (rxStep_idle_start (s := s.clearOutputs) hf hs) hf rfl (by simpa [ruleIdleStart] using hroom)
  have hquiet : (encodeFrame p).length - 1 = (encodeFrame p).length - 2 + 1 := by
    rw [length_encodeFrame]
    rfl
  refine ⟨t, hexec, ?_, hclosed.evs, hclosed.idle, hclosed.empty, hclosed.counter rfl, hclosed.unfaulted⟩
  rw [hresult, hquiet, List.replicate_succ]
  rfl

/-- Settles O56: the start marker empties the buffer with a Resync. -/
theorem roundTripFromInPacket : Obligations.RoundTripFromInPacket := by
  intro s p hf hs hroom
  obtain ⟨t, hexec, hresult, hclosed⟩ := exec_cmdRxFeed_encodeFrame (p := p)
    (rxStep_pkt_start (s := s.clearOutputs) hf hs) hf rfl (by simpa [rulePktStart, State.takeEvent] using hroom)
  exact ⟨t, hexec, hresult, hclosed.evs.trans (List.append_assoc _ _ _), hclosed.idle, hclosed.empty,
    hclosed.counter rfl, hclosed.unfaulted⟩

/-- Settles O57: the start marker is an invalid escape, which leaves the buffer as it is. -/
theorem frameAfterPendingEscapeMerges : Obligations.FrameAfterPendingEscapeMerges := by
  intro s p hf hs hroom
  obtain ⟨t, hexec, hresult, hclosed⟩ := exec_cmdRxFeed_encodeFrame (p := p)
    (rxStep_esc_invalid (s := s.clearOutputs) hf hs (by decide)) hf rfl hroom
  exact ⟨t, hexec, hresult, hclosed.idle, hclosed.empty, hclosed.unfaulted⟩

theorem exec_cmdRxFeed_params {s t : State} {bs : List Byte} (h : exec (.cmdRxFeed bs) s = .next t) :
    t.params = s.params := by
  injection (exec_cmdRxFeed bs s).symm.trans h with h
  exact h ▸ feed_params bs s.clearOutputs

/-- After a frame, whatever the state it met, the deframer is in Idle with an empty buffer (R133). -/
theorem exists_idle_of_encodeFrame {s : State} {p : List Byte} (hf : s.rxFault = false)
    (hroom : s.params.bufCapacity.allows (s.rxBuf.length + p.length + 1) = true) :
    ∃ t, exec (.cmdRxFeed (encodeFrame p)) s = .next t ∧ t.rxState = .idle ∧ t.rxBuf = [] ∧ t.rxFault = false := by
  have hroom' : s.params.bufCapacity.allows (p.length + 1) = true := Limit.allows_of_le hroom (by omega)
  cases hs : s.rxState with
  | idle =>
    obtain ⟨t, hexec, -, -, hidle, hempty, -, hfault⟩ := roundTripFromIdle s p hf hs hroom'
    exact ⟨t, hexec, hidle, hempty, hfault⟩
  | inPacket =>
    obtain ⟨t, hexec, -, -, hidle, hempty, -, hfault⟩ := roundTripFromInPacket s p hf hs hroom'
    exact ⟨t, hexec, hidle, hempty, hfault⟩
  | inPacketEscaped =>
    obtain ⟨t, hexec, -, hidle, hempty, hfault⟩ := frameAfterPendingEscapeMerges s p hf hs hroom
    exact ⟨t, hexec, hidle, hempty, hfault⟩

/-- Settles O58: the second frame meets Idle, and O55 applies. -/
theorem secondFrameAlwaysDecodes : Obligations.SecondFrameAlwaysDecodes := by
  intro s p q hf hroom hroom'
  obtain ⟨t, hexec, hidle, hempty, hfault⟩ := exists_idle_of_encodeFrame hf hroom
  obtain ⟨u, hexec', hresult, -, hidle', hempty', hcount, -⟩ :=
    roundTripFromIdle t q hfault hidle (exec_cmdRxFeed_params hexec ▸ hroom')
  exact ⟨t, u, hexec, hidle, hempty, hfault, hexec', hresult, hidle', hempty', hcount⟩

/-! ### What a step raises (R138, R139) -/

/-- The byte `b`, served in `s`, raises the event with this `diag`. -/
inductive RaisedBy (s : State) (b : Byte) : Event → List Byte → Prop
  | resync (hs : s.rxState = .inPacket) (hb : b = startMarker) : RaisedBy s b .resync s.rxBuf
  | packetComplete {p : List Byte} (hs : s.rxState = .inPacket) (hb : b = endMarker)
      (hbuf : s.rxBuf = p ++ [checksum p]) : RaisedBy s b (.packetComplete p) []
  | badChecksum (hs : s.rxState = .inPacket) (hb : b = endMarker) : RaisedBy s b .badChecksum s.rxBuf
  | invalidEscape (hs : s.rxState = .inPacketEscaped) : RaisedBy s b .invalidEscape [b]

/-- The byte `b` takes `s` to `t` and raises nothing. -/
structure SilentStep (s : State) (b : Byte) (t : State) : Prop where
  event : t.event = .none
  errcnt : t.rxErrcnt = s.rxErrcnt
  pending : t.rxState = .inPacketEscaped → t.rxFault = false → b = escMarker

/-- An append raises nothing, and leaves no escape pending unless it faults. -/
theorem State.appendThen_silentStep {s : State} (he : s.event = .none) (b x : Byte) :
    SilentStep s b (s.appendThen x .inPacket) := by
  refine ⟨(State.appendThen_event s x _).trans he, State.appendThen_rxErrcnt s x _, ?_⟩
  cases hb : s.bufFull with
  | true => rw [State.appendThen_full hb]; exact fun _ hf => nomatch hf
  | false => rw [State.appendThen_room hb]; exact fun hs => nomatch hs

/-- A step raises nothing, or takes one event (R167). -/
theorem rxStep_event_cases {s : State} (he : s.event = .none) (b : Byte) :
    SilentStep s b (rxStep b s) ∨
      ∃ e d acc, RaisedBy s b e d ∧ s.rxFault = false ∧ rxStep b s = State.takeEvent { s with csumAcc := acc } e d := by
  by_cases hfault : s.rxFault = true
  · rw [rxStep_faulted hfault]
    exact .inl ⟨he, rfl, fun _ hf => nomatch hfault.symm.trans hf⟩
  · have hf : s.rxFault = false := Bool.eq_false_iff.2 hfault
    rcases rxStep_cases hf b with ⟨-, -, h⟩ | ⟨hs, -, h⟩ | ⟨hs, hb, h⟩ | ⟨hs, -, -, h⟩ | ⟨p, hs, hb, hbuf, h⟩ |
      ⟨p, c, hs, hb, -, -, h⟩ | ⟨-, hb, h⟩ | ⟨-, -, h⟩ | ⟨x, -, -, h⟩ | ⟨hs, -, h⟩ <;> rw [h]
    · exact .inl ⟨he, rfl, nofun⟩
    · exact .inl ⟨he, rfl, fun hs' => nomatch hs.symm.trans hs'⟩
    · exact .inr ⟨_, _, s.csumAcc, .resync hs hb, hf, rfl⟩
    · exact .inl ⟨he, rfl, fun hs' => nomatch hs.symm.trans hs'⟩
    · exact .inr ⟨_, _, _, .packetComplete hs hb hbuf, hf, rfl⟩
    · exact .inr ⟨_, _, _, .badChecksum hs hb, hf, rfl⟩
    · exact .inl ⟨he, rfl, fun _ _ => hb⟩
    · exact .inl (State.appendThen_silentStep he b b)
    · exact .inl (State.appendThen_silentStep he b x)
    · exact .inr ⟨_, _, s.csumAcc, .invalidEscape hs, hf, rfl⟩

/-- A step with an event took that event. -/
theorem rxStep_of_event {s : State} (he : s.event = .none) {b : Byte} {e : Event}
    (h : (rxStep b s).event = e) (hne : e ≠ .none) :
    ∃ d acc, RaisedBy s b e d ∧ s.rxFault = false ∧ rxStep b s = State.takeEvent { s with csumAcc := acc } e d := by
  rcases rxStep_event_cases he b with hsilent | ⟨e', d, acc, hraised, hf, ht⟩
  · exact absurd (h.symm.trans hsilent.event) hne
  · obtain rfl : e' = e := by
      rw [ht] at h
      cases hraised <;> exact h
    exact ⟨d, acc, hraised, hf, ht⟩

theorem rxStep_packetComplete {s : State} (he : s.event = .none) {b : Byte} {p : List Byte}
    (h : (rxStep b s).event = .packetComplete p) :
    b = endMarker ∧ s.rxState = .inPacket ∧ s.rxBuf = p ++ [checksum p] := by
  obtain ⟨d, acc, hraised, -⟩ := rxStep_of_event he h nofun
  cases hraised with
  | packetComplete hs hb hbuf => exact ⟨hb, hs, hbuf⟩

theorem rxStep_badChecksum {s : State} (he : s.event = .none) {b : Byte} (h : (rxStep b s).event = .badChecksum) :
    b = endMarker ∧ (rxStep b s).rxState = .idle ∧ (rxStep b s).rxFault = false := by
  obtain ⟨d, acc, hraised, hf, ht⟩ := rxStep_of_event he h nofun
  cases hraised with
  | badChecksum hs hb => exact ⟨hb, ht ▸ rfl, ht ▸ hf⟩

theorem rxStep_resync {s : State} (he : s.event = .none) {b : Byte} (h : (rxStep b s).event = .resync) :
    b = startMarker := by
  obtain ⟨d, acc, hraised, -⟩ := rxStep_of_event he h nofun
  cases hraised with
  | resync hs hb => exact hb

theorem rxStep_invalidEscape {s : State} (he : s.event = .none) {b : Byte} (h : (rxStep b s).event = .invalidEscape) :
    s.rxState = .inPacketEscaped ∧ (rxStep b s).rxState = .inPacket ∧ (rxStep b s).rxFault = false := by
  obtain ⟨d, acc, hraised, hf, ht⟩ := rxStep_of_event he h nofun
  cases hraised with
  | invalidEscape hs => exact ⟨hs, ht ▸ rfl, ht ▸ hf⟩

/-- An escape is pending after a step only if its byte was the escape marker (R138). -/
theorem rxStep_pending {s : State} (he : s.event = .none) {b : Byte}
    (hs : (rxStep b s).rxState = .inPacketEscaped) (hf : (rxStep b s).rxFault = false) : b = escMarker := by
  rcases rxStep_event_cases he b with hsilent | ⟨e, d, acc, hraised, -, ht⟩
  · exact hsilent.pending hs hf
  · rw [ht] at hs
    cases hraised <;> cases hs

/-- A step that faults, or is not taken, raises nothing (R82, R90). -/
theorem rxStep_fault {s : State} (he : s.event = .none) {b : Byte} (hf : (rxStep b s).rxFault = true) :
    (rxStep b s).event = .none := by
  rcases rxStep_event_cases he b with hsilent | ⟨e, d, acc, hraised, hf', ht⟩
  · exact hsilent.event
  · rw [ht] at hf
    cases hraised <;> cases hf'.symm.trans hf

/-! ### Recovery (R134) -/

theorem raised_replicate_quiet_append (n : Nat) (rs : List Report) :
    raised (List.replicate n quiet ++ rs) = raised rs := by
  simp [raised]

/-- Settles O59: the event leaves Idle or InPacket, where O55 or O56 applies. -/
theorem recoveryAfterFramingErrors : Obligations.RecoveryAfterFramingErrors := by
  intro s t b p _ h hroom
  injection (exec_cmdRxStep b s).symm.trans h with h
  subst h
  have hroom' : (rxStep b s.clearOutputs).params.bufCapacity.allows (p.length + 1) = true :=
    rxStep_params b s.clearOutputs ▸ hroom
  constructor <;> intro he
  · obtain ⟨-, hidle, hf⟩ := rxStep_badChecksum (State.clearOutputs_event s) he
    obtain ⟨u, hexec, hresult, -, -, -, hcount, -⟩ := roundTripFromIdle (State.withResult _ _) p hf hidle hroom'
    exact ⟨hidle, u, _, hexec, hresult, raised_replicate_quiet_append _ _, hcount⟩
  · obtain ⟨-, hpkt, hf⟩ := rxStep_invalidEscape (State.clearOutputs_event s) he
    obtain ⟨u, hexec, hresult, -, -, -, hcount, -⟩ := roundTripFromInPacket (State.withResult _ _) p hf hpkt hroom'
    exact ⟨hpkt, u, _, hexec, hresult, congrArg (List.cons _) (raised_replicate_quiet_append _ _), hcount⟩

/-! ### Chunks (R136, R140) -/

theorem State.appendThen_withResult (s : State) (r : Result) (b : Byte) (next : DecoderState) :
    (s.withResult r).appendThen b next = (s.appendThen b next).withResult r := by
  cases hb : s.bufFull with
  | true => rw [State.appendThen_full hb, State.appendThen_full (s := s.withResult r) hb]; rfl
  | false => rw [State.appendThen_room hb, State.appendThen_room (s := s.withResult r) hb]; rfl

theorem rulePktEnd_withResult (s : State) (r : Result) : rulePktEnd (s.withResult r) = (rulePktEnd s).withResult r := by
  rcases buffer_cases s.rxBuf with hb | ⟨p, hb⟩ | ⟨p, c, hb, hc⟩
  · rw [rulePktEnd_empty hb, rulePktEnd_empty (s := s.withResult r) hb]
  · rw [rulePktEnd_match hb, rulePktEnd_match (s := s.withResult r) hb]; rfl
  · rw [rulePktEnd_mismatch hb hc, rulePktEnd_mismatch (s := s.withResult r) hb hc]; rfl

/-- No rule reads or writes the command result. -/
theorem rowRule_withResult (i : Instr) (s : State) (r : Result) :
    rowRule i (s.withResult r) = (rowRule i s).withResult r := by
  cases i with
  | rxPktEnd => exact rulePktEnd_withResult s r
  | rxPktData b => exact State.appendThen_withResult s r b _
  | rxEsc55 => exact State.appendThen_withResult s r _ _
  | rxEsc44 => exact State.appendThen_withResult s r _ _
  | rxEsc33 => exact State.appendThen_withResult s r _ _
  | _ => rfl

theorem rxStep_withResult (b : Byte) (s : State) (r : Result) :
    rxStep b (s.withResult r) = (rxStep b s).withResult r := by
  cases hf : s.rxFault with
  | true => rw [rxStep_faulted hf, rxStep_faulted (s := s.withResult r) hf]
  | false =>
    rw [rxStep_eq_rowRule hf, rxStep_eq_rowRule (s := s.withResult r) hf]
    exact rowRule_withResult _ s r

theorem feed_withResult (bs : List Byte) (s : State) (r : Result) :
    feed bs (s.withResult r) = ((feed bs s).1.withResult r, (feed bs s).2) := by
  induction bs generalizing s with
  | nil => rfl
  | cons b bs ih =>
    have hstep : rxStep b (s.withResult r).freshEvent = (rxStep b s.freshEvent).withResult r :=
      rxStep_withResult b s.freshEvent r
    cases hf : (rxStep b s.freshEvent).rxFault with
    | true => rw [feed_cons_faulted bs rfl hf, feed_cons_faulted bs hstep hf]
    | false =>
      rw [feed_cons bs rfl hf, feed_cons bs hstep hf, ih]
      rfl

/-- What a chunk leaves, the outputs of its last step aside (R18), and its reports. -/
def served (bs : List Byte) (s : State) : State × List Report := ((feed bs s).1.clearOutputs, (feed bs s).2)

/-- A chunk does not see the outputs it starts with. -/
@[simp] theorem served_clearOutputs (bs : List Byte) (s : State) : served bs s.clearOutputs = served bs s := by
  cases bs with
  | nil => rfl
  | cons b bs =>
    have hclear : s.clearOutputs = s.freshEvent.withResult .none := rfl
    rw [hclear, served, feed_withResult, feed_freshEvent s (by simp)]
    rfl

theorem served_faulted {s : State} (hf : s.rxFault = true) (bs : List Byte) : served bs s = (s.clearOutputs, []) := by
  obtain ⟨hstate, -, hreports⟩ := feed_faulted hf bs
  rw [served, hstate, hreports]

/-- One chunk after another is the chunk of both, faults included: what follows a fault changes nothing and gives no
report (R87, R90). -/
theorem served_append (a b : List Byte) (s : State) :
    served (a ++ b) s = ((served b (served a s).1).1, (served a s).2 ++ (served b (served a s).1).2) := by
  have hnext : served b (served a s).1 = served b (feed a s).1 := served_clearOutputs b (feed a s).1
  rw [hnext]
  cases hf : s.rxFault with
  | true =>
    obtain ⟨hstate, hfault, -⟩ := feed_faulted hf a
    rw [served_faulted hf, served_faulted hf, served_faulted hfault, hstate]
    rfl
  | false =>
    rw [served, feed_append a b hf]
    cases hfa : (feed a s).1.rxFault with
    | true =>
      rw [if_pos rfl, served_faulted hfa, List.append_nil]
      rfl
    | false => rfl

theorem exec_cmdRxFeed_served (bs : List Byte) (s : State) :
    ∃ t, exec (.cmdRxFeed bs) s = .next t ∧ t.result = .reports (served bs s).2 ∧ t.clearOutputs = (served bs s).1 := by
  rw [← served_clearOutputs]
  exact ⟨_, exec_cmdRxFeed bs s, rfl, rfl⟩

theorem serveChunks_eq_served (chunks : List (List Byte)) (s : State) :
    ∃ u, serveChunks chunks s = some (u, (served chunks.flatten s).2) ∧
      u.clearOutputs = (served chunks.flatten s).1 := by
  induction chunks generalizing s with
  | nil => exact ⟨s, rfl, rfl⟩
  | cons c cs ih =>
    obtain ⟨t, hexec, hresult, hstate⟩ := exec_cmdRxFeed_served c s
    obtain ⟨u, hserve, hu⟩ := ih t
    rw [← served_clearOutputs cs.flatten t, hstate] at hserve hu
    refine ⟨u, ?_, ?_⟩ <;> rw [List.flatten_cons, served_append]
    · simp [serveChunks, hexec, hresult, hserve]
    · exact hu

/-- Settles O25: both ways leave what the whole sequence, served as one chunk, leaves. -/
theorem chunkBoundariesDoNotMatter : Obligations.ChunkBoundariesDoNotMatter := by
  intro s chunks
  obtain ⟨u, hserve, hu⟩ := serveChunks_eq_served chunks s
  obtain ⟨t, hexec, hresult, ht⟩ := exec_cmdRxFeed_served chunks.flatten s
  exact ⟨u, t, _, hserve, hexec, hresult, ht.trans hu.symm⟩

/-- Bytes that are no start marker are passed over in Idle (R72 to R74). -/
theorem feed_noise {s : State} (hf : s.rxFault = false) (hs : s.rxState = .idle) {noise : List Byte}
    (hnoise : startMarker ∉ noise) :
    feed noise s.clearOutputs = (s.clearOutputs, List.replicate noise.length quiet) := by
  induction noise with
  | nil => rfl
  | cons b noise ih =>
    have hb : b ≠ startMarker := (List.ne_of_not_mem_cons hnoise).symm
    rw [feed_idle_other (s := s.clearOutputs) hf hs hb, State.clearOutputs_freshEvent,
      ih (List.not_mem_of_not_mem_cons hnoise)]
    rfl

/-- Settles O60: the noise leaves Idle as it was, and what follows is served from there. -/
theorem noiseInIdleIsTransparent : Obligations.NoiseInIdleIsTransparent := by
  intro s noise bs hf hs hnoise
  have hfeed := feed_noise hf hs hnoise
  refine ⟨by rw [exec_cmdRxFeed, hfeed], ?_⟩
  obtain ⟨t, hexec, hresult, ht⟩ := exec_cmdRxFeed_served bs s
  obtain ⟨u, hexec', hresult', hu⟩ := exec_cmdRxFeed_served (noise ++ bs) s
  have hserved : served noise s = (s.clearOutputs, List.replicate noise.length quiet) := by
    rw [← served_clearOutputs, served, hfeed, State.clearOutputs_clearOutputs]
  rw [served_append, hserved, served_clearOutputs] at hresult' hu
  exact ⟨t, u, _, hexec, hresult, hexec', hresult', hu.trans ht.symm⟩

/-! ### The reports of a chunk (R138, R139) -/

theorem eq_feed_of_exec_cmdRxFeed {s t : State} {bs : List Byte} {rs : List Report}
    (h : exec (.cmdRxFeed bs) s = .next t) (hr : t.result = .reports rs) :
    t = (feed bs s.clearOutputs).1.withResult (.reports rs) ∧ rs = (feed bs s.clearOutputs).2 := by
  injection (exec_cmdRxFeed bs s).symm.trans h with h
  subst h
  injection hr with hr
  exact ⟨by rw [hr], hr.symm⟩

/-- The report at a place of a chunk is that of the byte there, in the state that the bytes before it left. -/
theorem getElem?_feed {bs : List Byte} {s : State} {k : Nat} {r : Report} (h : (feed bs s).2[k]? = some r) :
    ∃ b, bs[k]? = some b ∧
      r = { event := (rxStep b (feed (bs.take k) s).1.freshEvent).event,
            diag := (rxStep b (feed (bs.take k) s).1.freshEvent).diag } := by
  induction bs generalizing s k with
  | nil => cases h
  | cons b bs ih =>
    cases hf : (rxStep b s.freshEvent).rxFault with
    | true => rw [feed_cons_faulted bs rfl hf] at h; cases h
    | false =>
      rw [feed_cons bs rfl hf] at h
      cases k with
      | zero =>
        injection h with h
        exact ⟨b, rfl, h.symm⟩
      | succ k =>
        obtain ⟨b', hb', hr⟩ := ih h
        rw [List.take_succ_cons, feed_cons _ rfl hf]
        exact ⟨b', hb', hr⟩

/-- Reports that only the byte `m` gives are at most as many as the chunk has bytes `m`. -/
theorem countP_feed_le {P : Report → Bool} {m : Byte}
    (hP : ∀ {s : State} {b : Byte}, s.event = .none →
      P { event := (rxStep b s).event, diag := (rxStep b s).diag } = true → b = m)
    (bs : List Byte) (s : State) : (feed bs s).2.countP P ≤ bs.count m := by
  induction bs generalizing s with
  | nil => exact le_rfl
  | cons b bs ih =>
    cases hf : (rxStep b s.freshEvent).rxFault with
    | true => rw [feed_cons_faulted bs rfl hf]; exact Nat.zero_le _
    | false =>
      rw [feed_cons bs rfl hf, List.countP_cons, List.count_cons]
      refine Nat.add_le_add (ih _) ?_
      split_ifs with hr hb
      · exact le_rfl
      · exact absurd (beq_iff_eq.2 (hP (State.freshEvent_event s) hr)) hb
      · exact Nat.zero_le _
      · exact le_rfl

/-- Settles O47: what each event says of its byte, counted over the chunk. -/
theorem eventsComeFromTheirBytes : Obligations.EventsComeFromTheirBytes := by
  constructor
  · intro s t b _ h
    injection (exec_cmdRxStep b s).symm.trans h with h
    subst h
    have he := State.clearOutputs_event s
    exact ⟨fun p hp => (rxStep_packetComplete he hp).1, fun hp => (rxStep_badChecksum he hp).1,
      rxStep_resync he, fun hp => (rxStep_invalidEscape he hp).1, rxStep_pending he⟩
  · intro s t bs rs h hr
    obtain ⟨-, rfl⟩ := eq_feed_of_exec_cmdRxFeed h hr
    constructor <;> refine countP_feed_le (fun {u b} he hP => ?_) bs s.clearOutputs
    · cases hev : (rxStep b u).event with
      | packetComplete p => exact (rxStep_packetComplete he hev).1
      | badChecksum => exact (rxStep_badChecksum he hev).1
      | _ => simp [Report.isPacket, hev] at hP
    · exact rxStep_resync he (of_decide_eq_true hP)

/-- An end marker that delivers a packet found it in the buffer, followed by its checksum. -/
theorem rulePktEnd_packetComplete {s : State} {p : List Byte} (he : s.event = .none)
    (h : (rulePktEnd s).event = .packetComplete p) : s.rxBuf = p ++ [checksum p] := by
  rcases buffer_cases s.rxBuf with hb | ⟨q, hb⟩ | ⟨q, c, hb, hc⟩
  · rw [rulePktEnd_empty hb, he] at h
    cases h
  · rw [rulePktEnd_match hb] at h
    injection h with h
    exact h ▸ hb
  · rw [rulePktEnd_mismatch hb hc] at h
    cases h

/-- Outside a chunk a packet is delivered by RX.PKT.END or by CMD.RX.STEP. -/
theorem exec_packetComplete {i : Instr} {s t : State} {p : List Byte} (hi : ∀ bs, i ≠ .cmdRxFeed bs)
    (h : exec i s = .next t) (hp : t.event = .packetComplete p) :
    s.rxState = .inPacket ∧ s.rxBuf = p ++ [checksum p] := by
  rcases framer_families i with (hrow | ⟨b, rfl⟩ | ⟨bs, rfl⟩) | htx | hframe | rfl | hquery
  · obtain rfl := endMarkerClosesTheFrame.2 i s t p hrow h hp
    rcases runRx_cases h with ⟨-, rfl⟩ | ⟨-, hs, rfl⟩
    · cases hp
    · exact ⟨hs, rulePktEnd_packetComplete (s := s.clearOutputs) rfl hp⟩
  · injection (exec_cmdRxStep b s).symm.trans h with h
    subst h
    exact (rxStep_packetComplete (State.clearOutputs_event s) hp).2
  · exact absurd rfl (hi bs)
  · obtain ⟨bs, rfl⟩ := txRow_cases htx h
    cases hp
  · rcases frameCommand_cases hframe h with ⟨-, rfl⟩ | ⟨-, r, q, c, acc, rfl⟩ | ⟨-, -, q, c, acc, rfl⟩ <;> cases hp
  · injection h with h
    subst h
    cases hp
  · obtain ⟨r, acc, rfl⟩ := query_cases hquery h
    cases hp

/-- Settles O46: in a chunk the report is that of its byte, in the state that the bytes before it left. -/
theorem noPacketWithoutChecksumMatch : Obligations.NoPacketWithoutChecksumMatch := by
  refine ⟨fun i s t p => exec_packetComplete, fun s t bs rs k p d h hr hk => ?_⟩
  obtain ⟨-, rfl⟩ := eq_feed_of_exec_cmdRxFeed h hr
  obtain ⟨b, hb, hreport⟩ := getElem?_feed hk
  injection hreport with hevent
  obtain ⟨rfl, hs, hbuf⟩ := rxStep_packetComplete (State.freshEvent_event _) hevent.symm
  exact ⟨hb, _, exec_cmdRxFeed _ _, hs, hbuf⟩

/-! ### The error counter (R142) -/

/-- The count of FramingErrors since the last packet, `n` so far, after one more report. -/
def countReport (n : Nat) (r : Report) : Nat :=
  if r.isPacket then 0 else if r.isFailure then n + 1 else n

theorem failuresSinceSuccess_append_singleton (rs : List Report) (r : Report) :
    failuresSinceSuccess (rs ++ [r]) = countReport (failuresSinceSuccess rs) r := by
  cases hp : r.isPacket <;> simp [failuresSinceSuccess, countReport, hp, List.countP_cons]
  split_ifs <;> rfl

/-- The count can be kept report by report. -/
theorem foldl_countReport (rs : List Report) : rs.foldl countReport 0 = failuresSinceSuccess rs := by
  induction rs using List.reverseRecOn with
  | nil => rfl
  | append_singleton rs r ih =>
    rw [List.foldl_append, ih, failuresSinceSuccess_append_singleton]
    rfl

theorem countReport_none (n : Nat) {r : Report} (h : r.event = .none) : countReport n r = n := by
  simp [countReport, Report.isPacket, Report.isFailure, h]

theorem saturate_zero (l : Limit) : saturate l 0 = 0 := by
  cases l <;> simp [saturate]

theorem saturate_saturate_succ (l : Limit) (n : Nat) : saturate l (saturate l n + 1) = saturate l (n + 1) := by
  cases l with
  | unbounded => rfl
  | atMost m =>
    simp only [saturate]
    omega

/-- A step counts its report. -/
theorem rxStep_rxErrcnt {s : State} (he : s.event = .none) (b : Byte) {n : Nat}
    (hn : s.rxErrcnt = saturate s.params.errcntMax n) :
    (rxStep b s).rxErrcnt = saturate s.params.errcntMax
      (countReport n { event := (rxStep b s).event, diag := (rxStep b s).diag }) := by
  rcases rxStep_event_cases he b with hsilent | ⟨e, d, acc, hraised, -, ht⟩
  · rw [countReport_none n hsilent.event, hsilent.errcnt, hn]
  · have hfailure : s.countedErrcnt = saturate s.params.errcntMax (n + 1) := by
      rw [State.countedErrcnt, hn, saturate_saturate_succ]
    rw [ht]
    cases hraised with
    | resync => exact hn
    | packetComplete => exact (saturate_zero _).symm
    | badChecksum => exact hfailure
    | invalidEscape => exact hfailure

/-- A run counts its reports; a step that faults raises nothing, and counts nothing. -/
theorem feed_rxErrcnt (bs : List Byte) {s : State} {n : Nat} (hn : s.rxErrcnt = saturate s.params.errcntMax n) :
    (feed bs s).1.rxErrcnt = saturate s.params.errcntMax ((feed bs s).2.foldl countReport n) := by
  induction bs generalizing s n with
  | nil => exact hn
  | cons b bs ih =>
    have he := State.freshEvent_event s
    have hstep := rxStep_rxErrcnt he b hn
    have hparams := rxStep_params b s.freshEvent
    cases hf : (rxStep b s.freshEvent).rxFault with
    | true =>
      rw [countReport_none n (rxStep_fault he hf)] at hstep
      rw [feed_cons_faulted bs rfl hf]
      exact hparams ▸ hstep
    | false =>
      rw [feed_cons bs rfl hf]
      exact hparams ▸ ih (hparams ▸ hstep)

/-- Settles O48: the run starts with a count of zero. -/
theorem counterCountsFailures : Obligations.CounterCountsFailures := by
  intro s t bs rs h0 h hr
  obtain ⟨rfl, hrs⟩ := eq_feed_of_exec_cmdRxFeed h hr
  rw [← foldl_countReport, hrs]
  exact feed_rxErrcnt bs (h0.trans (saturate_zero _).symm)

end Sys2Proof.Machine
end

section
/-! PROOFS of the family 44_commands.md: the commands that feed the deframer, the status reads, and the commands that only
compute. -/

namespace Sys2Proof.Machine

/-! ### Feeding the deframer by command (R147, R148) -/

/-- CMD.RX.STEP is CMD.RX.FEED of one byte; a step that faults gives no report either way (R82). -/
theorem exec_cmdRxStep_eq_exec_cmdRxFeed (b : Byte) (s : State) :
    exec (.cmdRxStep b) s = exec (.cmdRxFeed [b]) s := by
  rw [exec_cmdRxFeed, exec_cmdRxStep]
  cases hf : (rxStep b s.clearOutputs).rxFault with
  | true => rw [feed_cons_faulted [] rfl hf]; rfl
  | false => rw [feed_cons [] rfl hf]; rfl

/-- Settles O24: a step is a chunk of one byte, and `served_append` puts it before the rest of the chunk. -/
theorem feedIsStepOnEachByte : Obligations.FeedIsStepOnEachByte := by
  refine ⟨fun s => exec_cmdRxFeed [] s, fun s b bs => ?_⟩
  obtain ⟨t, hstep, hr, ht⟩ := exec_cmdRxFeed_served [b] s
  obtain ⟨u, hrest, hrs, hu⟩ := exec_cmdRxFeed_served bs t
  obtain ⟨v, hfeed, hall, hv⟩ := exec_cmdRxFeed_served (b :: bs) s
  rw [← exec_cmdRxStep_eq_exec_cmdRxFeed] at hstep
  have hserved : served (b :: bs) s = ((served bs t).1, (served [b] s).2 ++ (served bs t).2) := by
    rw [← served_clearOutputs bs t, ht]
    exact served_append [b] bs s
  rw [hserved] at hall hv
  exact ⟨t, u, v, _, _, hstep, hr, hrest, hrs, hfeed, hall, hv.trans hu.symm⟩

/-- Settles O23: the row that the byte selects and CMD.RX.STEP run the same `step(b)`. -/
theorem stepCommandAppliesTheSelectedRow : Obligations.StepCommandAppliesTheSelectedRow := fun s b _ =>
  ⟨classifyRx s.rxState b, rxStep b s.clearOutputs, decode_rxs _ b, exec_row s b, exec_cmdRxStep b s⟩

/-! ### The other commands (R151 to R155) -/

/-- Settles O39: `rx_esc` and `rx_len` are read off `rx_state` and the buffer (R12, R13). -/
theorem statusReadsChangeNothing : Obligations.StatusReadsChangeNothing := by
  intro s
  refine ⟨rfl, ?_⟩
  rw [← s.rxEsc_eq, ← s.rxLen_eq]
  rfl

theorem exec_cmdCsum (bs : List Byte) (s : State) :
    exec (.cmdCsum bs) s =
      .next { s.clearOutputs with csumAcc := checksum bs, result := .byte (checksum bs) } := by
  simp only [exec, execCmdCsum, State.runChecksum_eq, State.withResult]

theorem toNat_checksum (bs : List Byte) : (checksum bs).toNat = (bs.map BitVec.toNat).sum % 256 :=
  BitVec.toNat_ofNat _ 8

/-- Settles O40: the engine computes `Checksum` (R121), which is the sum modulo 256. -/
theorem checksumCommandSumsBytes : Obligations.ChecksumCommandSumsBytes := fun s bs =>
  ⟨checksum bs, checksum bs, exec_cmdCsum bs s, toNat_checksum bs⟩

/-- Settles O41: the codes and markers are those of `unescapeByte`, and the complements of the three markers unescape. -/
theorem unescapeCommandMapsTheCodes : Obligations.UnescapeCommandMapsTheCodes := by
  refine ⟨fun s b => rfl, ?_⟩
  rintro x (rfl | rfl | rfl) <;> rfl

/-- The re-framed bytes are a frame's payload and its checksum byte as they stood (R110). -/
theorem reframe_append_singleton (p : List Byte) (c : Byte) : reframe (p ++ [c]) = escapeAndFrame p c := rfl

/-- An empty body holds no checksum byte (R64). -/
theorem isFrame_reframe_nil : isFrame (reframe []) = false := by decide

/-- Settles O42: the result is `Reframe` of the bytes, which frames them as EscapeAndFrame does. -/
theorem reframeCommandFramesAsItStood : Obligations.ReframeCommandFramesAsItStood :=
  ⟨fun _ _ => rfl, reframe_append_singleton, rfl, isFrame_reframe_nil⟩

end Sys2Proof.Machine
end

section
/-! PROOFS of the family 70_reset_and_hazards.md: the reset by command. -/

namespace Sys2Proof.Machine

/-- R146, R190: CMD.RESET completes in any state, a faulted deframer and a busy framer included. -/
theorem exec_cmdReset (s : State) : exec .cmdReset s = .next s.resetBlock := rfl

/-- Settles O11: the block's reset writes the registers of `State.reset`, so R26's values (`resetValues`) hold after it;
the records, the parameters and the host's queue are the ones it keeps. -/
theorem cmdResetPutsEveryRegisterAtReset : Obligations.CmdResetPutsEveryRegisterAtReset := by
  intro s
  obtain ⟨hstate, hesc, hlen, herrcnt, hfault, hevent, hdiag, htx, hq⟩ := resetValues
  have hdecode (b : Byte) : decode s.resetBlock.rxState { port := .rxs, data := [b] } =
      decode .idle { port := .rxs, data := [b] } := congrArg (decode · _) hstate
  exact ⟨s.resetBlock, exec_cmdReset s, hstate, hesc, rfl, hlen, herrcnt, hfault, htx, hq, hevent, hdiag, rfl,
    rfl, rfl, rfl, rfl, hdecode⟩

end Sys2Proof.Machine
end
